-- ==== Sys2Proof/Word.lean ====
section
/-! DEFINITION. The widths the spec moves: bytes, 4-bit fields and 16-bit words (spec/00_scope.md R6, R8). -/

namespace Sys2Proof

/-- A segment pattern, a command byte, a data byte or an expander register (R6 `PATTERN_WIDTH`, R34). -/
abbrev Byte := BitVec 8

/-- A digit value or a digit position (R6 `VALUE_WIDTH`, `POSITION_WIDTH`). -/
abbrev Nibble := BitVec 4

/-- A request word (R59) or a transaction word (R48). Bit 0 is the least significant (R8). -/
abbrev Word := BitVec 16

end Sys2Proof
end

