-- ==== Sys2Proof/Config.lean ====
section
/-! DEFINITION. The implementation parameters of spec/00_scope.md R6, and the values the spec leaves free.
Every `opaque` constant here is a value no proof can see (spec/93_implementation_defined.md U1, U4, U8). -/

namespace Sys2Proof

/-- Which bus instance INIT opens: OPEN, a model argument (R6, decision D32, U8). DESIGN CHOICE, log entry 6: a
free value; the bus identifier is taken as a natural number, the source calling it a bus number (N18). -/
opaque Config.busId : Nat

/-- `DEV.cfg` at the first reset: any 8-bit value (R27, U1). DESIGN CHOICE, log entry 5: a free value. -/
opaque Config.powerOnCfg : Byte

/-- `DEV.pos[p]` at the first reset: any 8-bit value each (R29, U1). DESIGN CHOICE, log entry 5: free values. -/
opaque Config.powerOnPos : Nat → Byte

/-- `INTENSITY_LEVEL_0`, the brightness that INTENS = 0b00 selects: OPEN, read by no rule (decision D27, U4). -/
opaque Config.intensityLevel0 : Nat

/-- The parameters of R6 that the spec lets a model vary. They are held in the state and written by no step, so a
statement about every state holds for every value of them (log entry 6). -/
structure Params where
  /-- `MAX_POSITION`: highest position WRITE_DIGIT and BLANK_DIGIT accept (R6, R80). -/
  maxPosition : Nat
  /-- `UPDATE_ORDER`: order of a frame's four transactions (R6, R89). -/
  updateOrder : List (Fin 4)
  /-- `BUS_ID` (R6, R75). -/
  busId : Nat
  deriving DecidableEq, Repr

/-- R6: `MAX_POSITION` lies in 3 to 15. R89: `UPDATE_ORDER` is a permutation of [0, 1, 2, 3]. -/
abbrev Params.legal (p : Params) : Prop :=
  3 ≤ p.maxPosition ∧ p.maxPosition ≤ 15 ∧ p.updateOrder.Perm [0, 1, 2, 3]

/-- The values this hardware takes (R6's value column; R89's default order). -/
def Params.hardware : Params :=
  { maxPosition := 3, updateOrder := [0, 1, 2, 3], busId := Config.busId }

end Sys2Proof
end

