-- ==== Sys2Proof/Syntax.lean ====
section
/-! DEFINITION. The instructions: one constructor per row of spec/opcode_table.json (spec/00_scope.md R10). -/

namespace Sys2Proof

/-- The three encoded interfaces, each with a decoder of its own (spec/30_encoding.md, opening; the table's "space"
column): the host's request port, the two-wire bus, the encoder port. -/
inductive Space where
  | request
  | bus
  | encoderPort
  deriving DecidableEq, Repr

/-- An instruction is a request, a read of the encoder port, or a bus command (R10). -/
inductive Instr where
  /-- INIT (R61, R75). -/
  | init
  /-- WRITE_DIGIT `pos`, `val` (R62, R79). -/
  | writeDigit (pos val : Nibble)
  /-- BLANK_DIGIT `pos` (R63, R81). -/
  | blankDigit (pos : Nibble)
  /-- UPDATE `hour`:`minute` (R64, R85). -/
  | update (hour : BitVec 5) (minute : BitVec 6)
  /-- ENCODE `value` (R67). The operand is an unbounded integer, so that R71's out-of-range input can be said;
  the 4-bit port gives only 0 to 15 (log entry 7). -/
  | encode (value : Nat)
  /-- CONFIG `data` (R51, R94). -/
  | config (data : Byte)
  /-- WRITE_IO `pos`, `data` (R53, R95). -/
  | writeIo (pos : Nibble) (data : Byte)
  /-- SET_OC_L `data` (R55, R97). -/
  | setOcL (data : Byte)
  /-- SET_OC_H `data` (R55, R98). -/
  | setOcH (data : Byte)
  /-- READ_IO (R56, R99); `data` is the word's data byte, the one the expander returns (log entry 13). -/
  | readIo (data : Byte)
  deriving DecidableEq, Repr

/-- The interface an instruction is encoded on (the table's "space" column). -/
def Instr.space : Instr → Space
  | .init => .request
  | .writeDigit _ _ => .request
  | .blankDigit _ => .request
  | .update _ _ => .request
  | .encode _ => .encoderPort
  | .config _ => .bus
  | .writeIo _ _ => .bus
  | .setOcL _ => .bus
  | .setOcH _ => .bus
  | .readIo _ => .bus

end Sys2Proof
end

