-- ==== Sys2Proof/WellFormed.lean ====
section
/-! DEFINITION. Which instructions an encoding exists for. Every operand but ENCODE's is a field of its exact width,
so ENCODE's range is the one check (spec/40_encoder.md R67, R71). -/

namespace Sys2Proof

/-- ENCODE's value is a DigitValue, 0 to 15 (R67); the other operands are fields of the width their encoding gives. -/
def Instr.wellFormed : Instr → Bool
  | .init => true
  | .writeDigit _ _ => true
  | .blankDigit _ => true
  | .update _ _ => true
  | .encode value => decide (value < 16)
  | .config _ => true
  | .writeIo _ _ => true
  | .setOcL _ => true
  | .setOcH _ => true
  | .readIo _ => true

/-- `Instr.wellFormed` as a proposition. -/
abbrev Instr.WellFormed (i : Instr) : Prop := i.wellFormed = true

end Sys2Proof
end

