-- ==== Sys2Proof/Decode.lean ====
section
/-! DEFINITION. The decoders of the three interfaces, total on every word and rejecting by name, then the encoder,
both from spec/30_encoding.md. -/

namespace Sys2Proof

/-! ## Protocol constants (spec/10_state.md R26) -/

/-- `CMD_SET_OC_L`. -/
def cmdSetOcL : Byte := 0x22#8
/-- `CMD_SET_OC_H`. -/
def cmdSetOcH : Byte := 0x23#8
/-- `CONFIG_COMMAND_CODE`. -/
def configCommandCode : Byte := 0x24#8
/-- `CMD_READ_IO`. -/
def cmdReadIo : Byte := 0x26#8
/-- `WRITE_IO_BASE`. -/
def writeIoBase : Byte := 0x30#8

/-- The command byte `WRITE_IO_BASE | p` (R49, R53). -/
def writeIoCommand (p : Nibble) : Byte := writeIoBase ||| p.setWidth 8

/-! ## Fields -/

/-- The field `w[lo + len - 1 : lo]` (R8). -/
def field (w : Word) (lo len : Nat) : BitVec len := w.extractLsb' lo len

/-- The command byte of a transaction word, `T[15:8]` (R48). -/
def wordCmd (w : Word) : Byte := field w 8 8

/-- The data byte of a transaction word, `T[7:0]` (R48). -/
def wordData (w : Word) : Byte := field w 0 8

/-! ## Decoding -/

/-- Why a word is no instruction of its interface. -/
inductive Reject where
  /-- A request word with a reserved bit set (R65). -/
  | reservedRequest
  /-- A transaction word whose command byte the source gives no meaning to (R57). -/
  | unlistedCommand (cmd : Byte)
  /-- A bit above the encoder port's four input lines (R59, R67). -/
  | beyondEncoderPort
  deriving DecidableEq, Repr

/-- The request port: the operation field is `RQ[15:14]` (R60), and every reserved bit must be 0 (R61 to R65). -/
def decodeRequest (w : Word) : Except Reject Instr :=
  if field w 14 2 = 0b00#2 then
    if field w 0 14 = 0#14 then .ok .init else .error .reservedRequest
  else if field w 14 2 = 0b01#2 then
    if field w 12 2 = 0#2 ∧ field w 4 4 = 0#4 then .ok (.writeDigit (field w 8 4) (field w 0 4))
    else .error .reservedRequest
  else if field w 14 2 = 0b10#2 then
    if field w 12 2 = 0#2 ∧ field w 0 8 = 0#8 then .ok (.blankDigit (field w 8 4))
    else .error .reservedRequest
  else
    if field w 11 3 = 0#3 then .ok (.update (field w 6 5) (field w 0 6)) else .error .reservedRequest

/-- The expander's reading of a transaction word (R49, R51, R53, R55, R56); any other command byte has no meaning
(R57). -/
def decodeTransaction (w : Word) : Except Reject Instr :=
  if wordCmd w = configCommandCode then .ok (.config (wordData w))
  else if field w 12 4 = 0x3#4 then .ok (.writeIo (field w 8 4) (wordData w))
  else if wordCmd w = cmdSetOcL then .ok (.setOcL (wordData w))
  else if wordCmd w = cmdSetOcH then .ok (.setOcH (wordData w))
  else if wordCmd w = cmdReadIo then .ok (.readIo (wordData w))
  else .error (.unlistedCommand (wordCmd w))

/-- The encoder port: `value[3:0]`, written as the low four bits of a word (R59, R67). -/
def decodeEncoderPort (w : Word) : Except Reject Instr :=
  if field w 4 12 = 0#12 then .ok (.encode (field w 0 4).toNat) else .error .beyondEncoderPort

/-- The decoder of each interface. -/
def decode : Space → Word → Except Reject Instr
  | .request, w => decodeRequest w
  | .bus, w => decodeTransaction w
  | .encoderPort, w => decodeEncoderPort w

/-- The decoder on a row's word as spec/opcode_table.json numbers it. The table gives ENCODE 4 bits (one byte), every
other row 16; the 16-bit request rows and bus rows share no word, so the request port's reading comes first and the
bus's second (log entry 12). -/
def decodeTableWord (nbits w : Nat) : Option Instr :=
  if 2 ^ 16 ≤ w then none
  else if nbits ≤ 8 then (decode .encoderPort (BitVec.ofNat 16 w)).toOption
  else if nbits = 16 then
    match decode .request (BitVec.ofNat 16 w) with
    | .ok i => some i
    | .error _ => (decode .bus (BitVec.ofNat 16 w)).toOption
  else none

/-! ## Encoding -/

/-- The word of an instruction on its interface: the formulas of R61 to R64 for requests, `c ‖ d` for transactions
(R48), the four input lines for ENCODE. -/
def encode : Instr → Word
  | .init => 0x0000#16
  | .writeDigit pos val => 0x4000#16 ||| (pos.setWidth 16 <<< 8) ||| val.setWidth 16
  | .blankDigit pos => 0x8000#16 ||| (pos.setWidth 16 <<< 8)
  | .update hour minute => 0xC000#16 ||| (hour.setWidth 16 <<< 6) ||| minute.setWidth 16
  | .encode value => BitVec.ofNat 16 value
  | .config data => configCommandCode ++ data
  | .writeIo pos data => writeIoCommand pos ++ data
  | .setOcL data => cmdSetOcL ++ data
  | .setOcH data => cmdSetOcH ++ data
  | .readIo data => cmdReadIo ++ data

/-! ## The spec's notation (R66) -/

/-- One hexadecimal digit. -/
def hexDigit (v : Nibble) : String := String.singleton (Nat.digitChar v.toNat)

/-- A byte as `0xdd`. -/
def hexByte (b : Byte) : String := "0x" ++ hexDigit (b.extractLsb' 4 4) ++ hexDigit (b.extractLsb' 0 4)

/-- A number below 100 with two decimal digits. -/
def twoDigits (n : Nat) : String := toString (n / 10) ++ toString (n % 10)

/-- R66's notation. R66 lets a digit value be written decimal or hexadecimal; this writes decimal (log entry 16). -/
def Instr.notate : Instr → String
  | .init => "INIT"
  | .writeDigit pos val => "WRITE_DIGIT " ++ toString pos.toNat ++ ", " ++ toString val.toNat
  | .blankDigit pos => "BLANK_DIGIT " ++ toString pos.toNat
  | .update hour minute => "UPDATE " ++ twoDigits hour.toNat ++ ":" ++ twoDigits minute.toNat
  | .encode value => "ENCODE " ++ toString value
  | .config data => "CONFIG " ++ hexByte data
  | .writeIo pos data => "WRITE_IO " ++ toString pos.toNat ++ ", " ++ hexByte data
  | .setOcL data => "SET_OC_L " ++ hexByte data
  | .setOcH data => "SET_OC_H " ++ hexByte data
  | .readIo _ => "READ_IO"

end Sys2Proof
end

