-- ==== Sys2Proof/Machine/State.lean ====
section
/-! DEFINITION. The state (spec/10_state.md), the reasons a step can stop, and the state right after reset
(spec/70_reset_and_hazards.md R119, R121). -/

namespace Sys2Proof.Machine

/-- The block's fault codes (spec/60_exceptions.md R102). A fault of the block is a value of `S.fault` in a next
state, not an end of the run. -/
inductive FaultCode where
  /-- 1 `BUS_OPEN_ERROR` (R103). -/
  | busOpenError
  /-- 2 `BUS_TRANSACTION_ERROR` (R104). -/
  | busTransactionError
  /-- 3 `NOT_CONFIGURED` (R106). -/
  | notConfigured
  /-- 4 `ALREADY_INITIALIZED` (R107). -/
  | alreadyInitialized
  /-- 5 `POSITION_RANGE` (R108). -/
  | positionRange
  /-- 6 `TIME_RANGE` (R109). -/
  | timeRange
  /-- 7 `RESERVED_REQUEST` (R110). -/
  | reservedRequest
  /-- 8 `VALUE_RANGE`, integer-input models only (R111). -/
  | valueRange
  deriving DecidableEq, Repr

/-- A request with its decoded operands, as `S.op` holds it (R17). -/
inductive Request where
  | init
  | writeDigit (pos val : Nibble)
  | blankDigit (pos : Nibble)
  | update (hour : BitVec 5) (minute : BitVec 6)
  deriving DecidableEq, Repr

/-- A bus transaction: command byte and data byte (spec/30_encoding.md R48). -/
structure Txn where
  cmd : Byte
  data : Byte
  deriving DecidableEq, Repr

/-- The oracle's answer to the open (spec/41_controller.md R72, R76). -/
inductive OpenAnswer where
  | ok
  | err
  deriving DecidableEq, Repr

/-- The oracle's answer to a transaction (R72, R73). A failure carries R100's draw: whether the target register took
the transaction's byte. Both draws are admitted (U5); the block never sees the draw (log entry 4). -/
inductive TxnAnswer where
  | ack
  | err (latched : Bool)
  deriving DecidableEq, Repr

/-- The outcome of a transaction as the history records it (R31). -/
inductive TxnOutcome where
  | ack
  | err
  deriving DecidableEq, Repr

/-- The events of the history `H` (R31). Requests are recorded by their word, so that `refuse` holds the whole
request word (R102). -/
inductive Event where
  | accept (rq : Word)
  | refuse (rq : Word) (code : FaultCode)
  | busOpen (busId : Nat)
  | openResult (r : OpenAnswer)
  | issue (t : Txn)
  | result (t : Txn) (r : TxnOutcome)
  | done (r : Request)
  deriving DecidableEq, Repr

/-- The block state `S` (R13). -/
structure Block where
  /-- `S.opened` (R14). -/
  opened : Bool
  /-- `S.configured` (R15). -/
  configured : Bool
  /-- `S.fault` (R16). -/
  fault : Option FaultCode
  /-- `S.op` (R17). -/
  op : Option Request
  /-- `S.queue` (R18). -/
  queue : List Txn
  /-- `S.pending` (R19). -/
  pending : Option Txn
  /-- `S.opening` (R20). -/
  opening : Bool
  deriving DecidableEq, Repr

/-- The expander's register view `DEV` (R27, R29). -/
structure Expander where
  /-- `DEV.cfg` (R27, R28). -/
  cfg : Byte
  /-- `DEV.pos[0..15]` (R29). -/
  pos : Vector Byte 16
  deriving DecidableEq, Repr

/-- The block's two ports to the host (R59). The model's own fields: what the host presents, in order, and what the
encoder port last answered (log entries 3 and 8). -/
structure HostPorts where
  /-- The request words the host presents; the head is the word at the port. -/
  requests : List Word
  /-- The values the host drives on the encoder port. -/
  encoderReads : List Nibble
  /-- The encoder port's `pattern[7:0]` for the latest ENCODE; none before the first. -/
  pattern : Option Byte
  deriving DecidableEq, Repr

/-- The oracle's future answers, in the order they are used (R72). The model's own fields; an exhausted list is the
bus that never answers (log entry 4). -/
structure BusAnswers where
  opens : List OpenAnswer
  txns : List TxnAnswer
  deriving DecidableEq, Repr

/-- The whole machine: the block, the expander, the history, the parameters, and what the host and the bus supply. -/
structure State where
  /-- `S`. -/
  block : Block
  /-- `DEV`. -/
  dev : Expander
  /-- `H`, oldest event first. -/
  history : List Event
  /-- Whether a CONFIG succeeded in a run before the latest reset, those runs' histories being gone. The model's own
  field: with `H` it says which states R96 calls "before the first successful CONFIG" (log entry 21). -/
  earlierConfig : Bool
  /-- The parameters of R6; no step writes them. -/
  params : Params
  /-- The host's side of the two ports. -/
  host : HostPorts
  /-- The bus oracle. -/
  bus : BusAnswers
  deriving DecidableEq, Repr

/-- Where a step stops with a fault. The block's own faults are not here: they are `S.fault` values in a next state
(R105). -/
inductive Fault where
  /-- ENCODE with an integer above 15 (R71, R111, U9): VALUE_RANGE, no pattern. Raised by `execEncode` only; no word
  decodes to such an ENCODE. Safe: the machine stops where the spec gives no pattern. -/
  | valueRange
  deriving DecidableEq, Repr

/-- Where an instruction has no meaning. -/
inductive Refusal where
  /-- An instruction the model gives no meaning to yet; raised by exec's own arms only. Safe. -/
  | notModelled (mnemonic : String)
  /-- SET_OC_L at the expander: "A model of the expander that receives 0x22 refuses it" (R97, U2). Safe. -/
  | setOcLNoMeaning
  /-- SET_OC_H at the expander: "A model of the expander that receives 0x23 refuses it" (R98, U2). Safe. -/
  | setOcHNoMeaning
  /-- READ_IO at the expander: "A model of the expander that receives 0x26 refuses it" (R99, U2). Safe. -/
  | readIoNoMeaning
  /-- A transaction that reaches the expander with a command byte outside the list (R57, U2). Raised when a pending
  transaction is delivered. Safe. -/
  | unlistedCommand (cmd : Byte)
  deriving DecidableEq, Repr

/-- `S` after reset (R119). -/
def Block.reset : Block :=
  { opened := false, configured := false, fault := none, op := none, queue := [], pending := none, opening := false }

/-- `DEV` at the first reset: any value (R121, U1). Each register is a free value (log entry 5). -/
def Expander.powerOn : Expander :=
  { cfg := Config.powerOnCfg
    pos := #v[Config.powerOnPos 0, Config.powerOnPos 1, Config.powerOnPos 2, Config.powerOnPos 3,
      Config.powerOnPos 4, Config.powerOnPos 5, Config.powerOnPos 6, Config.powerOnPos 7,
      Config.powerOnPos 8, Config.powerOnPos 9, Config.powerOnPos 10, Config.powerOnPos 11,
      Config.powerOnPos 12, Config.powerOnPos 13, Config.powerOnPos 14, Config.powerOnPos 15] }

/-- The machine right after the first reset (R119, R121, R6): nothing presented, nothing answered. -/
def State.reset : State :=
  { block := Block.reset
    dev := Expander.powerOn
    history := []
    earlierConfig := false
    params := Params.hardware
    host := { requests := [], encoderReads := [], pattern := none }
    bus := { opens := [], txns := [] } }

end Sys2Proof.Machine
end

