-- ==== Sys2Proof/Machine/Flags.lean ====
section
/-! DEFINITION. The block has no flags and no condition codes (spec/10_state.md R24). What stands in their place: the
status predicates of R21, the status a host can observe (R24), and the fields of the configuration byte (R28, R52). -/

namespace Sys2Proof.Machine

/-! ## Status of the block -/

/-- `idle(S)` (R21). -/
def idle (b : Block) : Bool := b.op.isNone

/-- `ready(S)` (R21): the request port takes a word only when this holds. -/
def ready (b : Block) : Bool := idle b && b.fault.isNone

/-- `done(S)` (R21): the completion step fires on this. -/
def requestDone (b : Block) : Bool := b.op.isSome && b.queue.isEmpty && b.pending.isNone && !b.opening

/-- The status a host can observe beside the outcomes in the history (R24). -/
structure Status where
  configured : Bool
  fault : Option FaultCode
  ready : Bool
  deriving DecidableEq, Repr

/-- The host's view of the block (R24). -/
def status (b : Block) : Status := { configured := b.configured, fault := b.fault, ready := ready b }

/-- The number of a fault code (R102). -/
def FaultCode.code : FaultCode → Nat
  | .busOpenError => 1
  | .busTransactionError => 2
  | .notConfigured => 3
  | .alreadyInitialized => 4
  | .positionRange => 5
  | .timeRange => 6
  | .reservedRequest => 7
  | .valueRange => 8

/-! ## The configuration byte (R28, R52) -/

/-- `IO_OUTPUT_ENABLE` (R26). -/
def ioOutputEnable : Byte := 0x01#8
/-- `DECODE_LOW_NIBBLE_ENABLE` (R26). -/
def decodeLowNibbleEnable : Byte := 0x02#8
/-- `DECODE_HIGH_NIBBLE_ENABLE` (R26). -/
def decodeHighNibbleEnable : Byte := 0x04#8
/-- `EXT_INT_ENABLE` (R26). -/
def extIntEnable : Byte := 0x08#8
/-- `OPEN_DRAIN_ENABLE` (R26). -/
def openDrainEnable : Byte := 0x10#8
/-- `INTENSITY_MASK` (R26). -/
def intensityMask : Byte := 0x60#8
/-- `SLEEP` (R26). -/
def sleepFlag : Byte := 0x80#8

/-- The configuration word the block writes, 0x03 (R54). -/
def configWord : Byte := ioOutputEnable ||| decodeLowNibbleEnable

/-- The fields of a configuration byte (R28). -/
structure CfgFields where
  ioEn : Bool
  decL : Bool
  decH : Bool
  xInt : Bool
  odEn : Bool
  intens : BitVec 2
  sleep : Bool
  deriving DecidableEq, Repr

/-- IO_EN bit 0, DEC_L bit 1, DEC_H bit 2, X_INT bit 3, OD_EN bit 4, INTENS bits 6:5, SLEEP bit 7 (R28). -/
def cfgFields (c : Byte) : CfgFields :=
  { ioEn := c.getLsbD 0, decL := c.getLsbD 1, decH := c.getLsbD 2, xInt := c.getLsbD 3, odEn := c.getLsbD 4
    intens := c.extractLsb' 5 2, sleep := c.getLsbD 7 }

end Sys2Proof.Machine
end

