-- ==== Sys2Proof/Machine/Operands.lean ====
section
/-! DEFINITION. What the requests compute from their operands: the LUT read (spec/40_encoder.md R67, R68), the digit
transactions (spec/41_controller.md R77, R79, R81), a frame's digits and transactions (spec/42_update.md R85 to R89),
and the operand ranges (R80, R90). -/

namespace Sys2Proof.Machine

/-! ## The digit encoder -/

/-- The LUT, bit for bit (R68). -/
def lut : Vector Byte 16 :=
  #v[0x3F#8, 0x06#8, 0x5B#8, 0x4F#8, 0x66#8, 0x6D#8, 0x7D#8, 0x07#8,
    0x7F#8, 0x6F#8, 0x77#8, 0x7C#8, 0x58#8, 0x5E#8, 0x79#8, 0x71#8]

/-- `ENC(v)`, the LUT read of a 4-bit value (R67). -/
def enc (v : Nibble) : Byte := lut[v.toNat]'v.isLt

/-- ENCODE of an unbounded integer: VALUE_RANGE above 15, never a wrapped or clamped value (R71). -/
def encInteger (value : Nat) : Except FaultCode Byte :=
  if value < 16 then .ok (enc (BitVec.ofNat 4 value)) else .error .valueRange

/-! ## Transactions -/

/-- `BLANK_PATTERN` (spec/10_state.md R26): all segments off. -/
def blankPattern : Byte := 0x00#8

/-- The 16-bit transaction word `c ‖ d` (spec/30_encoding.md R48). -/
def Txn.word (t : Txn) : Word := t.cmd ++ t.data

/-- A transaction from its word (R48). -/
def Txn.ofWord (w : Word) : Txn := { cmd := wordCmd w, data := wordData w }

/-- INIT's one transaction, `Txn(0x24, 0x03)` (R54, R77). -/
def configTxn : Txn := { cmd := configCommandCode, data := configWord }

/-- The transaction that writes pattern `d` to position `p` (R53). -/
def positionTxn (p : Nibble) (d : Byte) : Txn := { cmd := writeIoCommand p, data := d }

/-- WRITE_DIGIT's transaction, `Txn(WRITE_IO_BASE | pos, ENC(val))` (R79). -/
def digitTxn (pos val : Nibble) : Txn := positionTxn pos (enc val)

/-- BLANK_DIGIT's transaction, `Txn(WRITE_IO_BASE | pos, 0x00)` (R81). -/
def blankTxn (pos : Nibble) : Txn := positionTxn pos blankPattern

/-! ## A frame -/

/-- A derived digit as ENCODE's operand. Every digit a frame derives is at most 9 (R86), so four bits lose nothing. -/
def digit (n : Nat) : Nibble := BitVec.ofNat 4 n

/-- The transaction of position `i` in the frame for hour:minute (R86 to R88): position 0 shows the tens of hours only
when hour > 10, a strict comparison (R87), and is blanked otherwise. -/
def frameTxn (hour minute : Nat) : Fin 4 → Txn
  | 0 => if hour > 10 then digitTxn 0 (digit (hour / 10)) else blankTxn 0
  | 1 => digitTxn 1 (digit (hour % 10))
  | 2 => digitTxn 2 (digit (minute / 10))
  | 3 => digitTxn 3 (digit (minute % 10))

/-- UPDATE's list, `[t_i for i in UPDATE_ORDER]` (R85, R89). -/
def frameTxns (order : List (Fin 4)) (hour minute : Nat) : List Txn := order.map (frameTxn hour minute)

/-! ## Operand ranges -/

/-- `HOUR_MAX` (spec/00_scope.md R6). -/
def hourMax : Nat := 23
/-- `MINUTE_MAX` (R6). -/
def minuteMax : Nat := 59

/-- A position the block accepts (R80). -/
def positionOk (p : Params) (pos : Nibble) : Bool := pos.toNat ≤ p.maxPosition

/-- A time sample UPDATE accepts (R90). -/
def timeOk (hour : BitVec 5) (minute : BitVec 6) : Bool := hour.toNat ≤ hourMax && minute.toNat ≤ minuteMax

end Sys2Proof.Machine
end

