-- ==== Sys2Proof/Machine/Ops.lean ====
section
/-! DEFINITION. The operations the meanings and the sequencer share: the history, fault entry (spec/60_exceptions.md
R105), acceptance (spec/41_controller.md R74, R112), and the expander's registers by command address
(spec/20_memory.md R34, R35). There is no return from a fault (R113): only reset clears it. -/

namespace Sys2Proof.Machine

/-- The outcome of a step of this machine. -/
abbrev Outcome := Host.Outcome State Fault Refusal

/-- Go on from a next state; a fault or a refusal stays. -/
def Outcome.andThen (o : Outcome) (f : State → State) : Outcome :=
  match o with
  | .next s => .next (f s)
  | .fault r => .fault r
  | .refused r => .refused r

/-- `H += e` (spec/10_state.md R31). -/
def State.log (s : State) (e : Event) : State := { s with history := s.history ++ [e] }

/-! ## Faults -/

/-- `raise Fault(k)` as one step (R105): the first fault is recorded, the request is dropped, `opened`, `configured`
and `DEV` stay. -/
def raiseFault (k : FaultCode) (s : State) : State :=
  { s with block := { s.block with
      fault := s.block.fault.or (some k), op := none, queue := [], pending := none, opening := false } }

/-- `H += Refuse(RQ, k) ; raise Fault(k)` (R74). -/
def refuseRequest (rq : Word) (k : FaultCode) (s : State) : State := raiseFault k (s.log (.refuse rq k))

/-! ## Requests -/

/-- The instruction a request is. -/
def Request.instr : Request → Instr
  | .init => .init
  | .writeDigit pos val => .writeDigit pos val
  | .blankDigit pos => .blankDigit pos
  | .update hour minute => .update hour minute

/-- The request word (spec/30_encoding.md R61 to R64). -/
def Request.word (r : Request) : Word := encode r.instr

/-- R112, second check: ALREADY_INITIALIZED for INIT (R107), NOT_CONFIGURED for the other three (R84, R106). -/
def sequenceFault (r : Request) (b : Block) : Option FaultCode :=
  match r with
  | .init => if b.opened then some .alreadyInitialized else none
  | .writeDigit _ _ => if b.configured then none else some .notConfigured
  | .blankDigit _ => if b.configured then none else some .notConfigured
  | .update _ _ => if b.configured then none else some .notConfigured

/-- R112, third check: POSITION_RANGE for WRITE_DIGIT and BLANK_DIGIT (R108), TIME_RANGE for UPDATE (R109). -/
def rangeFault (r : Request) (p : Params) : Option FaultCode :=
  match r with
  | .init => none
  | .writeDigit pos _ => if positionOk p pos then none else some .positionRange
  | .blankDigit pos => if positionOk p pos then none else some .positionRange
  | .update hour minute => if timeOk hour minute then none else some .timeRange

/-- The first check that fails, in R112's order. The first check of R112, reserved bits, is the decoder's: a word that
fails it is no request (`acceptStep`). -/
def acceptFault (r : Request) (s : State) : Option FaultCode :=
  (sequenceFault r s.block).or (rangeFault r s.params)

/-- `S.op <- decoded request ; H += Accept(RQ)` (R74). -/
def logAccept (r : Request) (s : State) : State :=
  State.log { s with block := { s.block with op := some r } } (.accept r.word)

/-- `enqueue(l)` (spec/00_scope.md R9). -/
def enqueue (l : List Txn) (s : State) : State := { s with block := { s.block with queue := l } }

/-- `S.opening <- true ; H += Open(BUS_ID)` (R74, R75). -/
def openBus (s : State) : State :=
  State.log { s with block := { s.block with opening := true } } (.busOpen s.params.busId)

/-- AcceptStep for a decoded request (R74), `begin` being the request's own line of it. A block that is not ready
takes no request: the word is neither accepted nor faulted (spec/70_reset_and_hazards.md R125). -/
def takeRequest (r : Request) (begin : State → State) (s : State) : Outcome :=
  if ready s.block then
    match acceptFault r s with
    | some k => .next (refuseRequest r.word k s)
    | none => .next (begin (logAccept r s))
  else .next s

/-! ## The expander's registers -/

/-- `DEV.pos[p]` (R29). -/
def Expander.position (d : Expander) (p : Nibble) : Byte := d.pos[p.toNat]'p.isLt

/-- `DEV.cfg <- d` (spec/43_expander_commands.md R94). -/
def State.setCfg (d : Byte) (s : State) : State := { s with dev := { s.dev with cfg := d } }

/-- The registers with `d` in position `p` (R95). -/
def Expander.write (e : Expander) (p : Nibble) (d : Byte) : Expander := { e with pos := e.pos.set p.toNat d p.isLt }

/-- `DEV.pos[p] <- d` (R95): this position only. -/
def State.setPosition (p : Nibble) (d : Byte) (s : State) : State := { s with dev := s.dev.write p d }

/-- The register at a command address of the command space (R34, R35, R42); none where the address names no register
of `DEV`. -/
def Expander.byteAt (d : Expander) (c : Byte) : Option Byte :=
  if c = configCommandCode then some d.cfg
  else if c.extractLsb' 4 4 = 0x3#4 then some (d.position (c.extractLsb' 0 4))
  else none

/-! ## Reset -/

/-- An event that records a successful CONFIG (R51, R73). -/
def isConfigSuccess : Event → Bool
  | .accept _ => false
  | .refuse _ _ => false
  | .busOpen _ => false
  | .openResult _ => false
  | .issue _ => false
  | .result t r => decide (t.cmd = configCommandCode) && decide (r = .ack)
  | .done _ => false

/-- Whether a CONFIG has succeeded since the first reset, in this run or in one before a later reset. -/
def State.configSucceeded (s : State) : Bool := s.earlierConfig || s.history.any isConfigSuccess

/-- A later reset (spec/70_reset_and_hazards.md R119 to R121): the block and the history take their reset values, the
expander keeps what it holds, and with it that a CONFIG has succeeded. No step performs it (R120; log entry 19). -/
def State.blockReset (s : State) : State :=
  { s with block := Block.reset, history := [], earlierConfig := s.configSucceeded }

end Sys2Proof.Machine
end

