-- ==== Sys2Proof/Machine/Controller.lean ====
section
/-! DEFINITION. The meanings of INIT, WRITE_DIGIT, BLANK_DIGIT (spec/41_controller.md) and UPDATE (spec/42_update.md):
each is its acceptance (R74); the sequencer's steps carry the request out. -/

namespace Sys2Proof.Machine

/-- INIT (R74, R75): the bus is opened; the configuration transaction follows the open's answer (R76). -/
def execInit (s : State) : Outcome := takeRequest .init openBus s

/-- WRITE_DIGIT (R79). -/
def execWriteDigit (pos val : Nibble) (s : State) : Outcome :=
  takeRequest (.writeDigit pos val) (enqueue [digitTxn pos val]) s

/-- BLANK_DIGIT (R81). -/
def execBlankDigit (pos : Nibble) (s : State) : Outcome := takeRequest (.blankDigit pos) (enqueue [blankTxn pos]) s

/-- UPDATE (R85, R89). -/
def execUpdate (hour : BitVec 5) (minute : BitVec 6) (s : State) : Outcome :=
  takeRequest (.update hour minute) (enqueue (frameTxns s.params.updateOrder hour.toNat minute.toNat)) s

end Sys2Proof.Machine
end

