-- ==== Sys2Proof/Machine/Encoder.lean ====
section
/-! DEFINITION. The meaning of ENCODE (spec/40_encoder.md). -/

namespace Sys2Proof.Machine

/-- ENCODE (R67): the encoder port's output shows `LUT[value]`; no `S` field, no `DEV` register and no event. An integer
above 15 is VALUE_RANGE and gives no pattern (R71, R111). -/
def execEncode (value : Nat) (s : State) : Outcome :=
  match encInteger value with
  | .ok b => .next { s with host := { s.host with pattern := some b } }
  | .error _ => .fault .valueRange

end Sys2Proof.Machine
end

