-- ==== Sys2Proof/Machine/ExpanderCommands.lean ====
section
/-! DEFINITION. The meanings of the bus commands at the expander (spec/43_expander_commands.md). -/

namespace Sys2Proof.Machine

/-- CONFIG (R94): `DEV.cfg <- d`, nothing else. -/
def execConfig (data : Byte) (s : State) : Outcome := .next (s.setCfg data)

/-- WRITE_IO (R95): `DEV.pos[p] <- d`, nothing else. -/
def execWriteIo (pos : Nibble) (data : Byte) (s : State) : Outcome := .next (s.setPosition pos data)

/-- SET_OC_L (R97): "A model of the expander that receives 0x22 refuses it" (U2). -/
def execSetOcL (_data : Byte) (_s : State) : Outcome := .refused .setOcLNoMeaning

/-- SET_OC_H (R98): "A model of the expander that receives 0x23 refuses it" (U2). -/
def execSetOcH (_data : Byte) (_s : State) : Outcome := .refused .setOcHNoMeaning

/-- READ_IO (R99): "A model of the expander that receives 0x26 refuses it" (U2). -/
def execReadIo (_data : Byte) (_s : State) : Outcome := .refused .readIoNoMeaning

end Sys2Proof.Machine
end

