-- ==== Sys2Proof/Machine/Dispatch.lean ====
section
/-! DEFINITION. One arm per instruction. -/

namespace Sys2Proof.Machine

def exec (i : Instr) (s : State) : Host.Outcome State Fault Refusal :=
  match i with
  | .init => Sys2Proof.Machine.execInit s
  | .writeDigit pos val => Sys2Proof.Machine.execWriteDigit pos val s
  | .blankDigit pos => Sys2Proof.Machine.execBlankDigit pos s
  | .update hour minute => Sys2Proof.Machine.execUpdate hour minute s
  | .encode value => Sys2Proof.Machine.execEncode value s
  | .config data => Sys2Proof.Machine.execConfig data s
  | .writeIo pos data => Sys2Proof.Machine.execWriteIo pos data s
  | .setOcL data => Sys2Proof.Machine.execSetOcL data s
  | .setOcH data => Sys2Proof.Machine.execSetOcH data s
  | .readIo data => Sys2Proof.Machine.execReadIo data s

end Sys2Proof.Machine
end

