-- ==== Sys2Proof/Machine/Sequencer.lean ====
section
/-! DEFINITION. The block's steps between and inside requests (spec/41_controller.md R73, R74, R76, R82), and which of
them is taken. An agent that has nothing to take waits: the state stays as it is (log entry 2). -/

namespace Sys2Proof.Machine

/-! ## Transactions -/

/-- IssueStep (R73): the queue's head `t` goes to the bus. -/
def issueStep (t : Txn) (rest : List Txn) (s : State) : State :=
  State.log { s with block := { s.block with pending := some t, queue := rest } } (.issue t)

/-- `apply(t, DEV)` (R73, R93): the expander decodes the transaction word and runs the command. A command byte outside
the list has no meaning (R57). -/
def deliver (t : Txn) (s : State) : Outcome :=
  match decode .bus t.word with
  | .ok i => exec i s
  | .error _ => .refused (.unlistedCommand t.cmd)

/-- `S.pending <- none ; H += Result(t, ack)` (R73). -/
def resultAck (t : Txn) (s : State) : State :=
  State.log { s with block := { s.block with pending := none } } (.result t .ack)

/-- `H += Result(t, err) ; raise Fault(BUS_TRANSACTION_ERROR)` (R73, R83). -/
def resultErr (t : Txn) (s : State) : State := raiseFault .busTransactionError (s.log (.result t .err))

/-- The oracle's transaction answers after one is used. -/
def State.setTxnAnswers (l : List TxnAnswer) (s : State) : State := { s with bus := { s.bus with txns := l } }

/-- ResultStep (R73): the oracle's answer to the pending transaction `t`. On a failure the register takes the byte or
not, as the answer's draw says (spec/43_expander_commands.md R100). With no answer the block waits, for ever if none
comes (spec/60_exceptions.md R114). -/
def resultStep (t : Txn) (s : State) : Outcome :=
  match s.bus.txns with
  | [] => .next s
  | .ack :: rest => (deliver t (s.setTxnAnswers rest)).andThen (resultAck t)
  | .err true :: rest => (deliver t (s.setTxnAnswers rest)).andThen (resultErr t)
  | .err false :: rest => .next (resultErr t (s.setTxnAnswers rest))

/-! ## INIT's open, completion -/

/-- OpenResultStep(ok) (R76, R77). -/
def openOk (s : State) : State :=
  enqueue [configTxn]
    (State.log { s with block := { s.block with opening := false, opened := true } } (.openResult .ok))

/-- OpenResultStep(err) (R76, R78). -/
def openErr (s : State) : State :=
  raiseFault .busOpenError
    (State.log { s with block := { s.block with opening := false } } (.openResult .err))

/-- The oracle's open answers after one is used. -/
def State.setOpenAnswers (l : List OpenAnswer) (s : State) : State := { s with bus := { s.bus with opens := l } }

/-- OpenResultStep (R76): the oracle's answer to the open; with no answer the block waits (R114). -/
def openResultStep (s : State) : State :=
  match s.bus.opens with
  | [] => s
  | .ok :: rest => openOk (s.setOpenAnswers rest)
  | .err :: rest => openErr (s.setOpenAnswers rest)

/-- CompleteStep (R82) for the request `r` in `S.op`: INIT sets `S.configured`. -/
def completeStep (r : Request) (s : State) : State :=
  State.log
    { s with block := { s.block with
        configured := s.block.configured || decide (r = .init), op := none } } (.done r)

/-! ## The ports -/

/-- The host's request words after one is taken. -/
def State.setRequests (l : List Word) (s : State) : State := { s with host := { s.host with requests := l } }

/-- The host's encoder values after one is read. -/
def State.setEncoderReads (l : List Nibble) (s : State) : State := { s with host := { s.host with encoderReads := l } }

/-- AcceptStep (R74) for a ready block: the word at the port is taken and decoded. A word with a reserved bit set is
refused first of all (R65, R110, R112); a decoded request runs its own acceptance. With no word the block stays idle. -/
def acceptStep (s : State) : Outcome :=
  match s.host.requests with
  | [] => .next s
  | w :: rest =>
    match decode .request w with
    | .ok i => exec i (s.setRequests rest)
    | .error _ => .next (refuseRequest w .reservedRequest (s.setRequests rest))

/-- The block's own step. A faulted block takes none (R105, R113). At most one of the others is enabled in a state
that a run reaches (R22). -/
def blockStep (s : State) : Outcome :=
  if s.block.fault.isSome then .next s
  else
    match s.block.pending with
    | some t => resultStep t s
    | none =>
      if s.block.opening then .next (openResultStep s)
      else
        match s.block.op, s.block.queue with
        | none, _ => acceptStep s
        | some _, t :: rest => .next (issueStep t rest s)
        | some r, [] => .next (completeStep r s)

/-- One step of the machine. The encoder port is always available, so a value on it is read first (R59); ENCODE touches
nothing the block reads or writes, so no order of the two can be told apart in `S`, `DEV` or `H` (log entry 9). -/
def nextStep (s : State) : Outcome :=
  match s.host.encoderReads with
  | v :: rest => exec (.encode v.toNat) (s.setEncoderReads rest)
  | [] => blockStep s

end Sys2Proof.Machine
end

