-- ==== Sys2Proof/Machine/Step.lean ====
section
/-! DEFINITION. The step function, and the placing of one instruction where the next step takes it. -/

namespace Sys2Proof.Machine

/-- One step of the machine (`nextStep`). -/
def step (s : State) : Host.Outcome State Fault Refusal := nextStep s

/-- A block that is ready for a request (spec/10_state.md R21), `opened` and `configured` as they are. -/
def Block.madeReady (b : Block) : Block :=
  { b with fault := none, op := none, queue := [], pending := none, opening := false }

/-- `s` with one instruction where the next step takes it (log entry 12). ENCODE: the value on the encoder port. A
request word: at the request port of a ready block. A bus command: the pending transaction, with the bus's success as
its answer, so that it reaches the expander in the next step. Any other 16-bit word is presented as a request, and the
next step refuses it. A table word that stands for no instruction by its size changes nothing. -/
def State.withFetchWord (s : State) (nbits w : Nat) : State :=
  if 2 ^ 16 ≤ w then s
  else if nbits ≤ 8 then
    if w < 16 then s.setEncoderReads (BitVec.ofNat 4 w :: s.host.encoderReads) else s
  else
    match decodeTableWord nbits w with
    | some i =>
      if i.space = .bus then
        { s with
          block := { s.block with fault := none, pending := some (Txn.ofWord (BitVec.ofNat 16 w)) }
          host := { s.host with encoderReads := [] }
          bus := { s.bus with txns := .ack :: s.bus.txns } }
      else
        { s with
          block := s.block.madeReady
          host := { s.host with requests := BitVec.ofNat 16 w :: s.host.requests, encoderReads := [] } }
    | none =>
      { s with
        block := s.block.madeReady
        host := { s.host with requests := BitVec.ofNat 16 w :: s.host.requests, encoderReads := [] } }

end Sys2Proof.Machine
end

