-- ==== Sys2Proof/Machine/Display.lean ====
section
/-! DEFINITION. What the display shows (spec/43_expander_commands.md R96; spec/30_encoding.md R58). No step reads it. -/

namespace Sys2Proof.Machine

/-- The segments of a digit, in the order of the pattern's bits (R58). -/
inductive Segment where
  | a | b | c | d | e | f | g | dp
  deriving DecidableEq, Repr

/-- The pattern bit of a segment: a to g are bits 0 to 6, the decimal point is bit 7 (R58). -/
def Segment.bit : Segment → Nat
  | .a => 0
  | .b => 1
  | .c => 2
  | .d => 3
  | .e => 4
  | .f => 5
  | .g => 6
  | .dp => 7

/-- Whether a pattern lights a segment (R58). -/
def lights (pattern : Byte) (x : Segment) : Bool := pattern.getLsbD x.bit

/-- The segments a pattern lights, in bit order (R58, R69). -/
def litSegments (pattern : Byte) : List Segment :=
  [Segment.a, .b, .c, .d, .e, .f, .g, .dp].filter (lights pattern)

/-- `NUM_DIGITS` (spec/00_scope.md R6): this display's digits are wired to positions 0 to 3 (spec/10_state.md R29). -/
def numDigits : Nat := 4

/-- Whether the spec says what is shown at position `p` (R96): a CONFIG has succeeded, `DEV.cfg = 0x03`, and a digit is
wired to `p`, which lies in 0 to 7. Elsewhere what is shown is unknown (U3). -/
def displayKnown (s : State) (p : Nibble) : Bool :=
  s.configSucceeded && decide (s.dev.cfg = 0x03#8) && decide (p.toNat ≤ 7) && decide (p.toNat < numDigits)

/-- The raw pattern the digit at position `p` shows (R96): `DEV.pos[p]`, where the spec says what is shown. -/
def shownPattern (s : State) (p : Nibble) : Option Byte :=
  if displayKnown s p then some (s.dev.position p) else none

/-- The segments lit at position `p` (R96), where the spec says what is shown. -/
def shownSegments (s : State) (p : Nibble) : Option (List Segment) := (shownPattern s p).map litSegments

end Sys2Proof.Machine
end

