-- ==== Sys2Proof/Safety.lean ====
section
/-! DEFINITION. What a safe run is: the invariants of spec/10_state.md R22, the closed set of transaction words
(spec/30_encoding.md R57), what a history says of the bus (spec/20_memory.md R43), the ends of a run
(spec/70_reset_and_hazards.md R131), and the states a run can reach. No step reads any of this. -/

namespace Sys2Proof.Machine

/-! ## The block's invariants -/

/-- R22 (i) to (v), clause by clause. -/
structure BlockLaws (b : Block) : Prop where
  configured_opened : b.configured = true → b.opened = true
  pending_busy : b.pending ≠ none → b.op ≠ none ∧ b.opening = false
  opening_init : b.opening = true → b.op = some .init ∧ b.opened = false
  fault_quiet : b.fault ≠ none → b.op = none ∧ b.queue = [] ∧ b.pending = none ∧ b.opening = false
  digit_configured : ∀ r, b.op = some r → r ≠ .init → b.configured = true

/-- R22, with what it takes for every step to keep it: an INIT past its open has opened the bus, an idle block has
nothing queued, a queue is at most a frame long (R18), the parameters are R6's. -/
structure ControlInv (s : State) : Prop where
  laws : BlockLaws s.block
  init_opened : s.block.op = some .init → s.block.opening = false → s.block.opened = true
  idle_empty : s.block.op = none → s.block.queue = []
  queue_short : s.block.queue.length ≤ 4
  legal : s.params.legal

/-! ## The transactions a block can emit -/

/-- The closed set of R57: 0x2403, and a byte for a position up to `MAX_POSITION` that is 0x00 or a LUT entry. -/
def Emittable (p : Params) (t : Txn) : Prop :=
  t.word = 0x2403#16 ∨
    ∃ pos : Nibble, pos.toNat ≤ p.maxPosition ∧ t.cmd = 0x30#8 + pos.setWidth 8 ∧
      (t.data = 0x00#8 ∨ ∃ v : Nibble, t.data = enc v)

/-- Every transaction queued, pending or ever issued is in R57's set. -/
structure EmissionInv (s : State) : Prop where
  legal : s.params.legal
  queued : ∀ t ∈ s.block.queue, Emittable s.params t
  pending : ∀ t, s.block.pending = some t → Emittable s.params t
  issued : ∀ t, Event.issue t ∈ s.history → Emittable s.params t

/-! ## What the history says of the bus -/

/-- The bus as one event changes it, reading the history from its start: none once the trace breaks R43, otherwise
the transaction that is outstanding, if any. A transaction is issued only while none is outstanding, and a result is
that of the outstanding one. -/
def busAfter (o : Option (Option Txn)) (e : Event) : Option (Option Txn) :=
  match o, e with
  | some none, .issue t => some (some t)
  | some (some _), .issue _ => none
  | some (some t), .result u _ => if u = t then some none else none
  | some none, .result _ _ => none
  | some x, _ => some x
  | none, _ => none

/-- The transaction outstanding after a history, if the history is strictly sequential (R43). -/
def outstanding (h : List Event) : Option (Option Txn) := h.foldl busAfter (some none)

/-- The history is strictly sequential and `S.pending` is what it leaves outstanding (R19, R43, R101). -/
structure BusTraceInv (s : State) : Prop where
  control : ControlInv s
  trace : outstanding s.history = some s.block.pending

/-- Whether the latest outcome for command `c` in the history is a success with data `d`. -/
def lastAcked (c d : Byte) : List Event → Bool
  | [] => false
  | e :: older =>
    match e with
    | .result t r => if t.cmd = c then decide (r = .ack) && decide (t.data = d) else lastAcked c d older
    | _ => lastAcked c d older

/-- R43 (b): a register whose latest transaction succeeded holds that transaction's byte. -/
def DevMatchesHistory (s : State) : Prop :=
  ∀ c d, lastAcked c d s.history.reverse = true → s.dev.byteAt c = some d

/-- An event that issues the configuration transaction. -/
def isConfigIssue (e : Event) : Bool := decide (e = .issue configTxn)

/-- R84's consequence: every issue of another transaction comes after a success of the configuration transaction. -/
def ConfiguredFirst (h : List Event) : Prop :=
  ∀ before after t, h = before ++ .issue t :: after → t ≠ configTxn → .result configTxn .ack ∈ before

/-- R77 and R84 over a run: CONFIG is issued at most once, and before it has succeeded nothing else is; with what it
takes for every step to keep it. -/
structure GateInv (s : State) : Prop where
  control : ControlInv s
  ordered : ConfiguredFirst s.history
  configured_acked : s.block.configured = true → .result configTxn .ack ∈ s.history
  config_once : s.history.countP isConfigIssue + s.block.queue.count configTxn ≤ 1
  config_unopened : s.block.opened = false → s.history.countP isConfigIssue + s.block.queue.count configTxn = 0
  init_only_config : s.block.op = some .init →
    (∀ t ∈ s.block.queue, t = configTxn) ∧ (∀ t, s.block.pending = some t → t = configTxn)
  init_progress : s.block.op = some .init → s.block.opening = false →
    configTxn ∈ s.block.queue ∨ s.block.pending = some configTxn ∨ .result configTxn .ack ∈ s.history
  digit_no_config : ∀ r, s.block.op = some r → r ≠ .init →
    (∀ t ∈ s.block.queue, t ≠ configTxn) ∧ (∀ t, s.block.pending = some t → t ≠ configTxn)

/-! ## Acceptance, read off the word -/

/-- The fault R112 gives the word `w` at acceptance, if any: reserved bits by the masks of R65, then the sequence, then
the operand range. Written over the word's number, not through the decoder. -/
def firstFault (w : Nat) (b : Block) (p : Params) : Option FaultCode :=
  if w / 0x4000 = 0 then
    if w ≠ 0 then some .reservedRequest else if b.opened then some .alreadyInitialized else none
  else if w / 0x4000 = 1 then
    if w / 0x1000 % 4 ≠ 0 ∨ w / 0x10 % 0x10 ≠ 0 then some .reservedRequest
    else if !b.configured then some .notConfigured
    else if p.maxPosition < w / 0x100 % 0x10 then some .positionRange else none
  else if w / 0x4000 = 2 then
    if w / 0x1000 % 4 ≠ 0 ∨ w % 0x100 ≠ 0 then some .reservedRequest
    else if !b.configured then some .notConfigured
    else if p.maxPosition < w / 0x100 % 0x10 then some .positionRange else none
  else
    if w / 0x800 % 8 ≠ 0 then some .reservedRequest
    else if !b.configured then some .notConfigured
    else if 23 < w / 0x40 % 0x20 ∨ 59 < w % 0x40 then some .timeRange else none

/-! ## Runs -/

/-- `n` steps of the machine, stopping at a fault or a refusal. -/
def run (n : Nat) (s : State) : Outcome := Sys2Proof.core.run n s

/-- The end of a run is well: after the last request, none being left at the port, idle and no fault (R131). -/
def EndsWell (s : State) : Prop := s.host.requests = [] ∧ s.block.op = none ∧ s.block.fault = none

/-- The end of a run is faulted (R131). -/
def EndsFaulted (s : State) : Prop := s.block.fault ≠ none

/-- The run is hung: an open or a transaction is outstanding and the bus has no answer to it (R131, R114). -/
def Hung (s : State) : Prop :=
  (s.block.opening = true ∧ s.block.pending = none ∧ s.bus.opens = []) ∨ (s.block.pending ≠ none ∧ s.bus.txns = [])

/-- A state in which a run can begin: the block and the history as reset leaves them (R119), legal parameters (R6), and
anything for the expander (R121), the host's words and the bus's answers. -/
structure Initial (s : State) : Prop where
  block : s.block = Block.reset
  history : s.history = []
  legal : s.params.legal

/-- The states that runs reach. -/
inductive Reachable : State → Prop where
  | initial {s : State} : Initial s → Reachable s
  | step {s t : State} : Reachable s → step s = .next t → Reachable t

end Sys2Proof.Machine
end

