-- ==== Sys2Proof/Certificates/Slice0/Obligations.lean ====
section
/-! DEFINITION. The statements about this machine. Each docstring names the rule of spec/ it rests on. -/

open Sys2Proof Sys2Proof.Machine

/-! ## Encodings -/

/-- R48 to R57, R61 to R64, R67: on its own interface, every well-formed instruction's word decodes to it, with every
operand at every value. -/
def Obligations.DecodeOfEncodeIsInstruction : Prop :=
  ∀ i : Instr, i.WellFormed → decode i.space (encode i) = .ok i

/-- The other direction: a word that decodes is the word of the well-formed instruction it decodes to, so no two words
are one instruction and no bit is dropped. -/
def Obligations.EncodeOfDecodeIsWord : Prop :=
  ∀ (sp : Space) (w : Word) (i : Instr), decode sp w = .ok i → i.space = sp ∧ i.WellFormed ∧ encode i = w

/-- R65: a request word is legal exactly when it fits the mask and match of one of the table's four request rows, and
every other word is rejected for its reserved bits. -/
def Obligations.RequestWordsLegalByMask : Prop :=
  ∀ w : Word,
    ((∃ i, decode .request w = .ok i) ↔
      (w = 0x0000#16 ∨ w &&& 0xF0F0#16 = 0x4000#16 ∨ w &&& 0xF0FF#16 = 0x8000#16 ∨ w &&& 0xF800#16 = 0xC000#16)) ∧
    ((∀ i, decode .request w ≠ .ok i) → decode .request w = .error .reservedRequest)

/-- R57: a transaction word has a meaning exactly for the listed command bytes 0x22, 0x23, 0x24, 0x26 and 0x30 to
0x3F; any other is rejected with its command byte. -/
def Obligations.TransactionWordsListed : Prop :=
  ∀ t : Txn,
    ((∃ i, decode .bus t.word = .ok i) ↔
      (t.cmd = 0x22#8 ∨ t.cmd = 0x23#8 ∨ t.cmd = 0x24#8 ∨ t.cmd = 0x26#8 ∨
        (0x30 ≤ t.cmd.toNat ∧ t.cmd.toNat ≤ 0x3F))) ∧
    ((∀ i, decode .bus t.word ≠ .ok i) → decode .bus t.word = .error (.unlistedCommand t.cmd))

/-- Words written out from R61 to R64, R51, R53, R55, R56 decode to the instructions they stand for (the words of
spec/95_test_vectors.md). -/
def Obligations.WrittenOutWordsDecode : Prop :=
  decode .request 0x0000#16 = .ok .init ∧
  decode .request 0x4107#16 = .ok (.writeDigit 1 7) ∧
  decode .request 0x8300#16 = .ok (.blankDigit 3) ∧
  decode .request 0xC1C5#16 = .ok (.update 7 5) ∧
  decode .request 0xC5FB#16 = .ok (.update 23 59) ∧
  decode .encoderPort 0x0005#16 = .ok (.encode 5) ∧
  decode .bus 0x2403#16 = .ok (.config 0x03) ∧
  decode .bus 0x323F#16 = .ok (.writeIo 2 0x3F) ∧
  decode .bus 0x22A5#16 = .ok (.setOcL 0xA5) ∧
  decode .bus 0x23A5#16 = .ok (.setOcH 0xA5) ∧
  decode .bus 0x2600#16 = .ok (.readIo 0x00)

/-! ## A step runs the decoded instruction -/

/-- R59, R74: a ready block with a word at the request port that decodes to `i` runs `i`, the word having been taken
from the port. -/
def Obligations.StepRunsDecodedRequest : Prop :=
  ∀ (s : State) (w : Word) (rest : List Word) (i : Instr),
    ControlInv s → s.host.encoderReads = [] → ready s.block = true → s.host.requests = w :: rest →
    decode .request w = .ok i →
    step s = exec i { s with host := { s.host with requests := rest } }

/-- R59, R67: a value on the encoder port is read at once, whatever the block is doing. (That it is read before the
block's own step is the model's choice, log entry 9.) -/
def Obligations.StepRunsEncodeAtThePort : Prop :=
  ∀ (s : State) (v : Nibble) (rest : List Nibble), s.host.encoderReads = v :: rest →
    decode .encoderPort (v.setWidth 16) = .ok (.encode v.toNat) ∧
    step s = exec (.encode v.toNat) { s with host := { s.host with encoderReads := rest } }

/-- R73, R93: when the bus acknowledges the pending transaction, the expander runs the command its word decodes to, the
transaction is no longer pending, and its result is recorded. -/
def Obligations.StepRunsDecodedBusCommand : Prop :=
  ∀ (s : State) (t : Txn) (rest : List TxnAnswer) (i : Instr),
    s.host.encoderReads = [] → s.block.fault = none → s.block.pending = some t → s.bus.txns = .ack :: rest →
    decode .bus t.word = .ok i →
    step s = Outcome.andThen (exec i { s with bus := { s.bus with txns := rest } }) fun u =>
      { u with block := { u.block with pending := none }, history := u.history ++ [.result t .ack] }

/-! ## ENCODE -/

/-- R67, R68: ENCODE of a value shows the LUT's entry, written out here, and changes nothing else. (The port's output is
held in the model's own field `host.pattern`, log entry 8.) -/
def Obligations.EncodeShowsLutEntry : Prop :=
  ∀ (s : State) (v : Nat) (b : Byte),
    [0x3F#8, 0x06#8, 0x5B#8, 0x4F#8, 0x66#8, 0x6D#8, 0x7D#8, 0x07#8,
      0x7F#8, 0x6F#8, 0x77#8, 0x7C#8, 0x58#8, 0x5E#8, 0x79#8, 0x71#8][v]? = some b →
    exec (.encode v) s = .next { s with host := { s.host with pattern := some b } }

/-- R71, R111: ENCODE of an integer above 15 is VALUE_RANGE and gives no pattern; on the 4-bit port it never faults. -/
def Obligations.EncodeAboveFifteenFaults : Prop :=
  (∀ (s : State) (v : Nat), 15 < v → exec (.encode v) s = .fault .valueRange) ∧
  (∀ (s : State) (v : Nibble), ∃ t, exec (.encode v.toNat) s = .next t)

/-- R70: ENCODE is total and deterministic, injective, never lights the decimal point and never shows blank. -/
def Obligations.EncodePatternsDistinct : Prop :=
  ∀ (s s' : State) (v v' : Nat), v < 16 → v' < 16 →
    ∃ t t' b b', exec (.encode v) s = .next t ∧ exec (.encode v') s' = .next t' ∧
      t.host.pattern = some b ∧ t'.host.pattern = some b' ∧
      (b = b' ↔ v = v') ∧ b.getLsbD 7 = false ∧ b ≠ 0x00#8

/-! ## Requests at acceptance -/

/-- R74, R75: an INIT that is accepted opens the bus: its effect and its frame. -/
def Obligations.InitAcceptedOpensBus : Prop :=
  ∀ s : State, ready s.block = true → s.block.opened = false →
    exec .init s = .next { s with
      block := { s.block with op := some .init, opening := true }
      history := s.history ++ [.accept 0x0000#16, .busOpen s.params.busId] }

/-- R79, R80: a WRITE_DIGIT that is accepted queues the one transaction (0x30 | pos, LUT[val]). -/
def Obligations.WriteDigitAcceptedQueuesPattern : Prop :=
  ∀ (s : State) (pos val : Nibble), ready s.block = true → s.block.configured = true →
    pos.toNat ≤ s.params.maxPosition →
    exec (.writeDigit pos val) s = .next { s with
      block := { s.block with
        op := some (.writeDigit pos val), queue := [{ cmd := 0x30#8 + pos.setWidth 8, data := enc val }] }
      history := s.history ++ [.accept (BitVec.ofNat 16 (0x4000 + pos.toNat * 0x100 + val.toNat))] }

/-- R80, R81: a BLANK_DIGIT that is accepted queues the one transaction (0x30 | pos, 0x00). -/
def Obligations.BlankDigitAcceptedQueuesBlank : Prop :=
  ∀ (s : State) (pos : Nibble), ready s.block = true → s.block.configured = true →
    pos.toNat ≤ s.params.maxPosition →
    exec (.blankDigit pos) s = .next { s with
      block := { s.block with
        op := some (.blankDigit pos), queue := [{ cmd := 0x30#8 + pos.setWidth 8, data := 0x00#8 }] }
      history := s.history ++ [.accept (BitVec.ofNat 16 (0x8000 + pos.toNat * 0x100))] }

/-- R85 to R90: an UPDATE that is accepted queues the frame's four transactions in UPDATE_ORDER, position 0 being
written exactly when hour > 10, whatever MAX_POSITION is. -/
def Obligations.UpdateAcceptedQueuesFrame : Prop :=
  ∀ (s : State) (hour : BitVec 5) (minute : BitVec 6), ready s.block = true → s.block.configured = true →
    hour.toNat ≤ 23 → minute.toNat ≤ 59 →
    exec (.update hour minute) s = .next { s with
      block := { s.block with
        op := some (.update hour minute)
        queue := s.params.updateOrder.map fun
          | 0 => { cmd := 0x30#8, data := if hour.toNat > 10 then enc (BitVec.ofNat 4 (hour.toNat / 10)) else 0x00#8 }
          | 1 => { cmd := 0x31#8, data := enc (BitVec.ofNat 4 (hour.toNat % 10)) }
          | 2 => { cmd := 0x32#8, data := enc (BitVec.ofNat 4 (minute.toNat / 10)) }
          | 3 => { cmd := 0x33#8, data := enc (BitVec.ofNat 4 (minute.toNat % 10)) } }
      history := s.history ++ [.accept (BitVec.ofNat 16 (0xC000 + hour.toNat * 0x40 + minute.toNat))] }

/-- R125: a request given to a block that is not ready is neither accepted nor faulted (log entry 11: `exec` says so by
leaving the state as it is). -/
def Obligations.RequestNotReadyIsHeld : Prop :=
  ∀ (s : State) (i : Instr), i.space = .request → ready s.block = false → exec i s = .next s

/-- R106 to R110, R112: at a ready block every 16-bit word is taken; the first failing check, read off the word's
number, is the one fault; a refused word records itself with the code, drops nothing but itself, and issues nothing; a
word that passes is accepted. (R74 and R112 give the check order and the events. That a refused word has been taken from
the port, and that a word is taken at once, is the model's deduction, log entries 10 and 2.) -/
def Obligations.AcceptanceFollowsCheckOrder : Prop :=
  ∀ (s : State) (w : Word) (rest : List Word),
    ControlInv s → s.host.encoderReads = [] → ready s.block = true → s.host.requests = w :: rest →
    match firstFault w.toNat s.block s.params with
    | some k => step s = .next { s with
        block := { s.block with fault := some k }
        host := { s.host with requests := rest }
        history := s.history ++ [.refuse w k] }
    | none => ∃ t r more, step s = .next t ∧ t.host.requests = rest ∧ t.block.op = some r ∧ t.block.fault = none ∧
        t.history = s.history ++ .accept w :: more ∧ (∀ x, Event.issue x ∉ more) ∧
        t.dev = s.dev ∧ t.bus = s.bus ∧ t.block.pending = none

/-! ## The steps inside a request -/

/-- R73, IssueStep: the queue's head goes to the bus, and only that. -/
def Obligations.IssueStepSendsQueueHead : Prop :=
  ∀ (s : State) (r : Request) (t : Txn) (rest : List Txn),
    s.host.encoderReads = [] → s.block.fault = none → s.block.op = some r → s.block.pending = none →
    s.block.opening = false → s.block.queue = t :: rest →
    step s = .next { s with
      block := { s.block with pending := some t, queue := rest }, history := s.history ++ [.issue t] }

/-- R73, ResultStep(ack), with R94, R95: the register at the transaction's command address holds its data byte and every
other reads as before; the transaction is no longer pending; the rest of the machine is unchanged. -/
def Obligations.AckWritesTargetOnly : Prop :=
  ∀ (s : State) (t : Txn) (rest : List TxnAnswer),
    s.host.encoderReads = [] → s.block.fault = none → s.block.pending = some t → s.bus.txns = .ack :: rest →
    t.cmd = 0x24#8 ∨ (0x30 ≤ t.cmd.toNat ∧ t.cmd.toNat ≤ 0x3F) →
    ∃ d : Expander,
      step s = .next { s with
        block := { s.block with pending := none }
        dev := d
        history := s.history ++ [.result t .ack]
        bus := { s.bus with txns := rest } } ∧
      ∀ c, d.byteAt c = if c = t.cmd then some t.data else s.dev.byteAt c

/-- R100, R104: a transaction that fails raises BUS_TRANSACTION_ERROR, drops the request, and leaves its target register
with the new byte or the old one, as the draw says; no other register changes. Both draws are admitted. -/
def Obligations.FailedTransactionTargetIsDraw : Prop :=
  ∀ (s : State) (t : Txn) (latched : Bool) (rest : List TxnAnswer),
    s.host.encoderReads = [] → s.block.fault = none → s.block.pending = some t →
    s.bus.txns = .err latched :: rest →
    t.cmd = 0x24#8 ∨ (0x30 ≤ t.cmd.toNat ∧ t.cmd.toNat ≤ 0x3F) →
    ∃ d : Expander,
      step s = .next { s with
        block := { s.block with
          fault := some .busTransactionError, op := none, queue := [], pending := none, opening := false }
        dev := d
        history := s.history ++ [.result t .err]
        bus := { s.bus with txns := rest } } ∧
      ∀ c, d.byteAt c = if c = t.cmd ∧ latched = true then some t.data else s.dev.byteAt c

/-- R76: the open's answer. Success opens the handle and queues exactly the configuration transaction; failure raises
BUS_OPEN_ERROR. -/
def Obligations.OpenAnswerConfiguresOrFaults : Prop :=
  ∀ (s : State) (rest : List OpenAnswer),
    s.host.encoderReads = [] → s.block.fault = none → s.block.pending = none → s.block.opening = true →
    (s.bus.opens = .ok :: rest → step s = .next { s with
      block := { s.block with opening := false, opened := true, queue := [{ cmd := 0x24#8, data := 0x03#8 }] }
      history := s.history ++ [.openResult .ok]
      bus := { s.bus with opens := rest } }) ∧
    (s.bus.opens = .err :: rest → step s = .next { s with
      block := { s.block with
        fault := some .busOpenError, op := none, queue := [], pending := none, opening := false }
      history := s.history ++ [.openResult .err]
      bus := { s.bus with opens := rest } })

/-- R82: when `done(S)` holds the request completes, INIT setting `S.configured`, and the block is ready again. -/
def Obligations.CompletionEndsRequest : Prop :=
  ∀ (s : State) (r : Request),
    s.host.encoderReads = [] → s.block.fault = none → s.block.op = some r → requestDone s.block = true →
    ∃ t, step s = .next t ∧ ready t.block = true ∧ t = { s with
      block := { s.block with op := none, configured := (s.block.configured || decide (r = .init)) }
      history := s.history ++ [.done r] }

/-- R17, R82: the request in progress changes in three ways only: a request at the port is accepted, the request
completes with its `Done`, or a fault drops it. -/
def Obligations.RequestChangesOnlyByAcceptDoneFault : Prop :=
  ∀ s t : State, step s = .next t → s.block.op ≠ t.block.op →
    (∃ r w rest, s.block.op = none ∧ t.block.op = some r ∧ s.host.requests = w :: rest ∧
      decode .request w = .ok r.instr ∧ t.host.requests = rest) ∨
    (∃ r, s.block.op = some r ∧ t.block.op = none ∧ s.block.queue = [] ∧ s.block.pending = none ∧
      s.block.opening = false ∧ t.block.fault = none ∧ t.history = s.history ++ [.done r]) ∨
    (∃ r k, s.block.op = some r ∧ t.block.op = none ∧ s.block.fault = none ∧ t.block.fault = some k)

/-- R125: while the block is busy the words at the port stay there, neither accepted nor refused, and the request in
progress is not replaced by another. -/
def Obligations.BusyBlockHoldsRequests : Prop :=
  ∀ s t : State, s.block.op ≠ none → step s = .next t →
    t.host.requests = s.host.requests ∧ (t.block.op = s.block.op ∨ t.block.op = none) ∧
    ∃ more, t.history = s.history ++ more ∧ (∀ w, Event.accept w ∉ more) ∧ (∀ w k, Event.refuse w k ∉ more)

/-! ## Whole requests -/

/-- R75, R77, R54: INIT on an unopened block, the bus answering ok and ack: the whole history, the configuration byte
0x03 with its fields, and nothing else changed. -/
def Obligations.InitRunConfiguresExpander : Prop :=
  ∀ (s : State) (rest : List Word) (opens : List OpenAnswer) (txns : List TxnAnswer),
    ControlInv s → s.host.encoderReads = [] → ready s.block = true → s.block.opened = false →
    s.host.requests = 0x0000#16 :: rest → s.bus.opens = .ok :: opens → s.bus.txns = .ack :: txns →
    run 5 s = .next { s with
      block := { s.block with opened := true, configured := true }
      dev := { s.dev with cfg := 0x03#8 }
      history := s.history ++ [.accept 0x0000#16, .busOpen s.params.busId, .openResult .ok,
        .issue { cmd := 0x24#8, data := 0x03#8 }, .result { cmd := 0x24#8, data := 0x03#8 } .ack, .done .init]
      host := { s.host with requests := rest }
      bus := { opens := opens, txns := txns } } ∧
    cfgFields 0x03#8 =
      { ioEn := true, decL := true, decH := false, xInt := false, odEn := false, intens := 0#2, sleep := false }

/-- R78: INIT's two failures. (a) The open fails: BUS_OPEN_ERROR and no transaction. (b) The configuration transaction
fails: BUS_TRANSACTION_ERROR, `S.opened` true, `S.configured` false. Both are fatal: no later step changes
anything. -/
def Obligations.InitFailuresAreFatal : Prop :=
  ∀ (s : State) (rest : List Word),
    ControlInv s → s.host.encoderReads = [] → ready s.block = true → s.block.opened = false →
    s.host.requests = 0x0000#16 :: rest →
    (∀ opens, s.bus.opens = .err :: opens →
      ∃ t, run 2 s = .next t ∧ t.block = { s.block with fault := some .busOpenError } ∧ t.dev = s.dev ∧
        t.history = s.history ++ [.accept 0x0000#16, .busOpen s.params.busId, .openResult .err] ∧
        ∀ n, run n t = .next t) ∧
    (∀ opens latched txns, s.bus.opens = .ok :: opens → s.bus.txns = .err latched :: txns →
      ∃ t, run 4 s = .next t ∧
        t.block = { s.block with fault := some .busTransactionError, opened := true, configured := false } ∧
        t.history = s.history ++ [.accept 0x0000#16, .busOpen s.params.busId, .openResult .ok,
          .issue { cmd := 0x24#8, data := 0x03#8 }, .result { cmd := 0x24#8, data := 0x03#8 } .err] ∧
        t.dev.cfg = (if latched then 0x03#8 else s.dev.cfg) ∧ (∀ p, t.dev.position p = s.dev.position p) ∧
        ∀ n, run n t = .next t)

/-- R79: WRITE_DIGIT from the port to `Done`, the bus answering ack: `DEV.pos[pos]` holds `LUT[val]`, every other
position and `DEV.cfg` are unchanged, whatever they held. -/
def Obligations.WriteDigitRunShowsDigit : Prop :=
  ∀ (s : State) (pos val : Nibble) (rest : List Word) (txns : List TxnAnswer),
    ControlInv s → s.host.encoderReads = [] → ready s.block = true → s.block.configured = true →
    pos.toNat ≤ s.params.maxPosition → s.host.requests = encode (.writeDigit pos val) :: rest →
    s.bus.txns = .ack :: txns →
    ∃ t, run 4 s = .next t ∧ t.block = s.block ∧ t.host = { s.host with requests := rest } ∧
      t.bus = { s.bus with txns := txns } ∧ t.params = s.params ∧
      t.history = s.history ++ [.accept (encode (.writeDigit pos val)),
        .issue { cmd := 0x30#8 + pos.setWidth 8, data := enc val },
        .result { cmd := 0x30#8 + pos.setWidth 8, data := enc val } .ack, .done (.writeDigit pos val)] ∧
      t.dev.cfg = s.dev.cfg ∧ ∀ p, t.dev.position p = if p = pos then enc val else s.dev.position p

/-- R81: BLANK_DIGIT from the port to `Done`, the bus answering ack: `DEV.pos[pos]` holds 0x00, and the transaction is
issued whatever the position held. -/
def Obligations.BlankDigitRunBlanks : Prop :=
  ∀ (s : State) (pos : Nibble) (rest : List Word) (txns : List TxnAnswer),
    ControlInv s → s.host.encoderReads = [] → ready s.block = true → s.block.configured = true →
    pos.toNat ≤ s.params.maxPosition → s.host.requests = encode (.blankDigit pos) :: rest →
    s.bus.txns = .ack :: txns →
    ∃ t, run 4 s = .next t ∧ t.block = s.block ∧ t.host = { s.host with requests := rest } ∧
      t.bus = { s.bus with txns := txns } ∧ t.params = s.params ∧
      t.history = s.history ++ [.accept (encode (.blankDigit pos)),
        .issue { cmd := 0x30#8 + pos.setWidth 8, data := 0x00#8 },
        .result { cmd := 0x30#8 + pos.setWidth 8, data := 0x00#8 } .ack, .done (.blankDigit pos)] ∧
      t.dev.cfg = s.dev.cfg ∧ ∀ p, t.dev.position p = if p = pos then 0x00#8 else s.dev.position p

/-- R92: after an UPDATE that completes the expander holds the frame, whatever UPDATE_ORDER is; `DEV.cfg` and the
positions 4 to 15 are unchanged. -/
def Obligations.UpdateRunShowsFrame : Prop :=
  ∀ (s : State) (hour : BitVec 5) (minute : BitVec 6) (rest : List Word) (txns : List TxnAnswer),
    ControlInv s → s.host.encoderReads = [] → ready s.block = true → s.block.configured = true →
    hour.toNat ≤ 23 → minute.toNat ≤ 59 → s.host.requests = encode (.update hour minute) :: rest →
    s.bus.txns = .ack :: .ack :: .ack :: .ack :: txns →
    ∃ t, run 10 s = .next t ∧ t.block = s.block ∧ t.host = { s.host with requests := rest } ∧
      t.bus = { s.bus with txns := txns } ∧
      t.dev.position 0 = (if hour.toNat > 10 then enc (BitVec.ofNat 4 (hour.toNat / 10)) else 0x00#8) ∧
      t.dev.position 1 = enc (BitVec.ofNat 4 (hour.toNat % 10)) ∧
      t.dev.position 2 = enc (BitVec.ofNat 4 (minute.toNat / 10)) ∧
      t.dev.position 3 = enc (BitVec.ofNat 4 (minute.toNat % 10)) ∧
      (∀ p : Nibble, 4 ≤ p.toNat → t.dev.position p = s.dev.position p) ∧ t.dev.cfg = s.dev.cfg

/-- R91: the k-th transaction of a frame fails. The earlier positions of UPDATE_ORDER hold their new patterns, the
failed one its new or its old, the later ones their old; nothing after it is issued. -/
def Obligations.UpdateFailureLeavesMixedFrame : Prop :=
  ∀ (s : State) (hour : BitVec 5) (minute : BitVec 6) (k : Nat) (latched : Bool) (rest : List Word)
    (txns : List TxnAnswer),
    ControlInv s → s.host.encoderReads = [] → ready s.block = true → s.block.configured = true →
    hour.toNat ≤ 23 → minute.toNat ≤ 59 → s.host.requests = encode (.update hour minute) :: rest →
    k < 4 → s.bus.txns = List.replicate k .ack ++ .err latched :: txns →
    ∃ t more, run (2 * k + 3) s = .next t ∧
      t.block = { s.block with fault := some .busTransactionError } ∧
      t.history = s.history ++ .accept (encode (.update hour minute)) :: more ∧
      (more.filterMap fun | .issue x => some x | _ => none) =
        (frameTxns s.params.updateOrder hour.toNat minute.toNat).take (k + 1) ∧
      t.dev.cfg = s.dev.cfg ∧
      (∀ (j : Nat) (i : Fin 4), s.params.updateOrder[j]? = some i →
        t.dev.position (BitVec.ofNat 4 i.val) =
          if j < k ∨ (j = k ∧ latched = true) then (frameTxn hour.toNat minute.toNat i).data
          else s.dev.position (BitVec.ofNat 4 i.val)) ∧
      (∀ p : Nibble, 4 ≤ p.toNat → t.dev.position p = s.dev.position p)

/-! ## The bus commands at the expander -/

/-- R94: CONFIG writes `DEV.cfg` and nothing else. -/
def Obligations.ConfigWritesCfgOnly : Prop :=
  ∀ (s : State) (d : Byte), ∃ t, exec (.config d) s = .next t ∧ t.dev.cfg = d ∧
    (∀ c, c ≠ 0x24#8 → t.dev.byteAt c = s.dev.byteAt c) ∧
    t.block = s.block ∧ t.history = s.history ∧ t.params = s.params ∧ t.host = s.host ∧ t.bus = s.bus ∧
    t.earlierConfig = s.earlierConfig

/-- R95: WRITE_IO writes `DEV.pos[p]`; the other 15 positions and `DEV.cfg` are unchanged, and writing the byte a
position already holds changes nothing in `DEV`. -/
def Obligations.WriteIoWritesOnePosition : Prop :=
  ∀ (s : State) (p : Nibble) (d : Byte), ∃ t, exec (.writeIo p d) s = .next t ∧ t.dev.position p = d ∧
    (∀ q, q ≠ p → t.dev.position q = s.dev.position q) ∧ t.dev.cfg = s.dev.cfg ∧
    (∀ c, c ≠ 0x30#8 + p.setWidth 8 → t.dev.byteAt c = s.dev.byteAt c) ∧
    (s.dev.position p = d → t.dev = s.dev) ∧
    t.block = s.block ∧ t.history = s.history ∧ t.params = s.params ∧ t.host = s.host ∧ t.bus = s.bus ∧
    t.earlierConfig = s.earlierConfig

/-- R97 to R99, U2: the expander refuses SET_OC_L, SET_OC_H and READ_IO, by name. -/
def Obligations.UnissuedCommandsRefused : Prop :=
  ∀ (s : State) (d : Byte),
    exec (.setOcL d) s = .refused .setOcLNoMeaning ∧
    exec (.setOcH d) s = .refused .setOcHNoMeaning ∧
    exec (.readIo d) s = .refused .readIoNoMeaning

/-- R57, U2: a transaction with an unlisted command byte that reaches the expander is refused with that byte. (R57 and
U2 speak of a command that is received. That a transaction which failed after the expander latched it was received, and so
is refused as an acknowledged one is, is the model's deduction, log entry 17.) -/
def Obligations.UnlistedCommandRefused : Prop :=
  ∀ (s : State) (t : Txn) (rest : List TxnAnswer),
    s.host.encoderReads = [] → s.block.fault = none → s.block.pending = some t →
    (s.bus.txns = .ack :: rest ∨ s.bus.txns = .err true :: rest) →
    t.cmd ≠ 0x22#8 → t.cmd ≠ 0x23#8 → t.cmd ≠ 0x24#8 → t.cmd ≠ 0x26#8 →
    (t.cmd.toNat < 0x30 ∨ 0x3F < t.cmd.toNat) →
    step s = .refused (.unlistedCommand t.cmd)

/-- R93: a register of the expander changes only in a step that ends the pending transaction, only at that transaction's
command address, and then holds its data byte. -/
def Obligations.ExpanderChangesOnlyByTransaction : Prop :=
  ∀ s t : State, step s = .next t → ∀ c, t.dev.byteAt c ≠ s.dev.byteAt c →
    ∃ x r, s.block.pending = some x ∧ x.cmd = c ∧ t.dev.byteAt c = some x.data ∧ t.block.pending = none ∧
      t.history = s.history ++ [.result x r]

/-- R96: once a CONFIG has succeeded and while `DEV.cfg = 0x03`, a byte written to one of the positions 0 to 3, to which
this display's digits are wired (R29), is shown raw, each segment lit exactly when its bit is 1 (R58: a to g are bits 0 to
6, the decimal point bit 7). (That a CONFIG may have succeeded in a run before a later reset is the model's field
`earlierConfig`, log entry 21.) -/
def Obligations.WrittenByteShownRaw : Prop :=
  ∀ (s : State) (p : Nibble) (d : Byte), s.dev.cfg = 0x03#8 → p.toNat ≤ 3 →
    (s.earlierConfig = true ∨ ∃ x : Txn, x.cmd = 0x24#8 ∧ Event.result x .ack ∈ s.history) →
    ∃ t segs, exec (.writeIo p d) s = .next t ∧ shownSegments t p = some segs ∧
      ∀ x : Segment, x ∈ segs ↔ d.getLsbD (match x with
        | .a => 0 | .b => 1 | .c => 2 | .d => 3 | .e => 4 | .f => 5 | .g => 6 | .dp => 7) = true

/-! ## Faults and hangs -/

/-- R105: a step that raises a fault drops the request and keeps `opened` and `configured`; `DEV` changes at most at the
failing transaction's address; and no further step changes anything of the block, of `DEV` or of the history. -/
def Obligations.FaultEntryDropsRequestAndStops : Prop :=
  ∀ (s t : State) (k : FaultCode), step s = .next t → s.block.fault = none → t.block.fault = some k →
    t.block = { s.block with fault := some k, op := none, queue := [], pending := none, opening := false } ∧
    (∀ c, t.dev.byteAt c = s.dev.byteAt c ∨
      ∃ x, s.block.pending = some x ∧ c = x.cmd ∧ t.dev.byteAt c = some x.data) ∧
    (∀ u, step t = .next u → u.block = t.block ∧ u.dev = t.dev ∧ u.history = t.history)

/-- R16, R113: a faulted block takes no request and no step, for ever: the fault, the block, `DEV`, the history and the
words at the port stay through every number of steps. -/
def Obligations.FaultedBlockStaysQuiescent : Prop :=
  ∀ (s : State) (k : FaultCode) (n : Nat), s.block.fault = some k →
    ∃ t, run n s = .next t ∧ t.block = s.block ∧ t.dev = s.dev ∧ t.history = s.history ∧ t.bus = s.bus ∧
      t.params = s.params ∧ t.host.requests = s.host.requests

/-- R114: an open or a transaction the bus never answers leaves the block busy for ever, without a fault of its own.
(A bus with no answer left stands for one that never answers, log entry 4.) -/
def Obligations.UnansweredBusHangsBlock : Prop :=
  ∀ (s : State) (n : Nat), Hung s →
    ∃ t, run n s = .next t ∧ t.block = s.block ∧ t.dev = s.dev ∧ t.history = s.history ∧
      t.host.requests = s.host.requests ∧ Hung t

/-- R14: only INIT's successful open sets `S.opened`, and no step clears it; after reset it is false. -/
def Obligations.OpenedOnlyBySuccessfulOpen : Prop :=
  State.reset.block.opened = false ∧
  ∀ s t : State, step s = .next t →
    (s.block.opened = true → t.block.opened = true) ∧
    (s.block.opened = false → t.block.opened = true →
      s.block.opening = true ∧ (ControlInv s → s.block.op = some .init) ∧
      t.history = s.history ++ [.openResult .ok] ∧ ∃ rest, s.bus.opens = .ok :: rest ∧ t.bus.opens = rest)

/-- R15, R84: only INIT's completion sets `S.configured`, and no step clears it; after reset it is false; without it
WRITE_DIGIT, BLANK_DIGIT and UPDATE raise NOT_CONFIGURED. -/
def Obligations.ConfiguredOnlyByInitCompletion : Prop :=
  State.reset.block.configured = false ∧
  (∀ s t : State, step s = .next t →
    (s.block.configured = true → t.block.configured = true) ∧
    (s.block.configured = false → t.block.configured = true →
      s.block.op = some .init ∧ requestDone s.block = true ∧ t.history = s.history ++ [.done .init])) ∧
  (∀ (s : State) (i : Instr), i.space = .request → i ≠ .init → ready s.block = true →
    s.block.configured = false →
    exec i s = .next { s with
      block := { s.block with
        fault := some .notConfigured, op := none, queue := [], pending := none, opening := false }
      history := s.history ++ [.refuse (encode i) .notConfigured] })

/-! ## Invariants and whole-machine rules -/

/-- Every step keeps the block's invariants of R22, with the clauses that carry them (R18's bound, R6's parameters). -/
def Obligations.StepKeepsControlInvariant : Prop :=
  ∀ s t : State, ControlInv s → step s = .next t → ControlInv t

/-- R57: every step keeps the transactions queued, pending and ever issued inside the closed set of words. -/
def Obligations.StepKeepsEmissionClosed : Prop :=
  ∀ s t : State, EmissionInv s → step s = .next t → EmissionInv t

/-- R19, R43, R101: every step keeps the history strictly sequential, one transaction outstanding at most and that one
pending. -/
def Obligations.StepKeepsBusSequential : Prop :=
  ∀ s t : State, BusTraceInv s → step s = .next t → BusTraceInv t

/-- R43 (b): every step keeps the registers in agreement with the latest acknowledged transactions. -/
def Obligations.StepKeepsRegistersMatchHistory : Prop :=
  ∀ s t : State, DevMatchesHistory s → step s = .next t → DevMatchesHistory t

/-- R77, R84: every step keeps CONFIG issued at most once, and acknowledged before any WRITE_IO is issued. -/
def Obligations.StepKeepsConfigFirstAndOnce : Prop :=
  ∀ s t : State, GateInv s → step s = .next t → GateInv t

/-- The reset state, and every state in which a run begins, whatever the expander holds, the host presents and the bus
answers, meets all five invariants. -/
def Obligations.InitialStatesMeetInvariants : Prop :=
  Initial State.reset ∧ ∀ s : State, Initial s →
    ControlInv s ∧ EmissionInv s ∧ BusTraceInv s ∧ DevMatchesHistory s ∧ GateInv s

/-- R22: every reachable state satisfies (i) to (v). -/
def Obligations.ReachableStatesSatisfyR22 : Prop :=
  ∀ s : State, Reachable s →
    (s.block.configured = true → s.block.opened = true) ∧
    (s.block.pending ≠ none → s.block.op ≠ none ∧ s.block.opening = false) ∧
    (s.block.opening = true → s.block.op = some .init ∧ s.block.opened = false) ∧
    (s.block.fault ≠ none →
      s.block.op = none ∧ s.block.queue = [] ∧ s.block.pending = none ∧ s.block.opening = false) ∧
    (∀ r, s.block.op = some r → r ≠ .init → s.block.configured = true)

/-- R101: in a reachable state every transaction issued and not pending has its result in the history, and with a
fault recorded every transaction issued has one. (Two issues of the same transaction are told apart by
StepKeepsBusSequential, not here.) -/
def Obligations.ReachableIssuesHaveResults : Prop :=
  ∀ s : State, Reachable s → ∀ x, Event.issue x ∈ s.history →
    (s.block.pending = some x ∨ ∃ r, Event.result x r ∈ s.history) ∧
    (s.block.fault ≠ none → ∃ r, Event.result x r ∈ s.history)

/-- R33: what the block does never depends on what the expander holds: with any other register contents the step is the
same but for those contents. -/
def Obligations.BlockIgnoresExpanderContents : Prop :=
  ∀ (s : State) (d : Expander),
    Outcome.andThen (step { s with dev := d }) (fun t => { t with dev := s.dev }) =
      Outcome.andThen (step s) (fun t => { t with dev := s.dev })

/-- R31, R6: no step reads the history, every step only adds to its end, and no step writes the parameters or the model's
own field `earlierConfig` (log entry 21). -/
def Obligations.HistoryOnlyGrowsUnread : Prop :=
  ∀ s t : State, step s = .next t →
    t.params = s.params ∧ t.earlierConfig = s.earlierConfig ∧
    ∃ more, t.history = s.history ++ more ∧
      ∀ h : List Event, step { s with history := h } = .next { t with history := h ++ more }

/-- R131: a state from which nothing more happens, with nothing left at the ports, is an end of the run: well (after the
last request, idle and without a fault), faulted or hung. -/
def Obligations.QuietStateIsEndOfRun : Prop :=
  ∀ s : State, s.host.encoderReads = [] → s.host.requests = [] → step s = .next s →
    EndsWell s ∨ EndsFaulted s ∨ Hung s

/-- R114, R128: a busy block ends its request within ten steps once the bus has an answer for the open and for every
transaction left; the request completes or faults. -/
def Obligations.AnsweredRequestEnds : Prop :=
  ∀ s : State, ControlInv s → EmissionInv s → s.host.encoderReads = [] → s.block.op ≠ none →
    (s.block.opening = true → s.bus.opens ≠ [] ∧ s.bus.txns ≠ []) →
    (s.block.queue.length + (if s.block.pending = none then 0 else 1) ≤ s.bus.txns.length) →
    ∃ n t, n ≤ 10 ∧ run n s = .next t ∧ t.block.op = none ∧ t.host = s.host

/-! ## Reset -/

/-- R119, R122, R123: `S` and `H` after reset, the block ready; and from a block in that state the one word that raises
no fault is INIT's. (The model's own fields are empty after reset too: log entries 3, 4, 8 and 21, DESIGN CHOICE; this says
nothing of them.) -/
def Obligations.ResetLeavesBlockReadyForInitOnly : Prop :=
  State.reset.block =
    { opened := false, configured := false, fault := none, op := none, queue := [], pending := none,
      opening := false } ∧
  State.reset.history = [] ∧ ready State.reset.block = true ∧
  ∀ (s : State) (w : Word) (rest : List Word),
    s.block = State.reset.block → s.host.encoderReads = [] → s.host.requests = w :: rest →
    ∃ t, step s = .next t ∧ (t.block.fault = none ↔ w = 0x0000#16)

/-- R113, R120, R121: a later reset, of any state, clears the block's fault and its history and leaves the expander as
the previous run left it; INIT runs again, and the stale digits stay through it. (A later reset as an
operation that keeps `DEV`, the parameters and the model's port and bus lists is log entry 19, DEDUCED: R120 treats reset
as the initial state only, and no step resets.) -/
def Obligations.LaterResetKeepsStaleDigits : Prop :=
  ∀ s : State, s.params.legal →
    Initial s.blockReset ∧ s.blockReset.dev = s.dev ∧
    ∀ (rest : List Word) (opens : List OpenAnswer) (txns : List TxnAnswer),
      s.host.encoderReads = [] → s.host.requests = 0x0000#16 :: rest → s.bus.opens = .ok :: opens →
      s.bus.txns = .ack :: txns →
      ∃ t, run 5 s.blockReset = .next t ∧ t.block.configured = true ∧ t.block.fault = none ∧
        ready t.block = true ∧ t.dev.cfg = 0x03#8 ∧ ∀ p, t.dev.position p = s.dev.position p

/-! ## The display -/

/-- R96, R29, U3: the model gives a display meaning exactly to the positions 0 to 3, to which this display's digits are
wired, while `DEV.cfg = 0x03` and a CONFIG has succeeded: none before the first successful CONFIG, under any other
`DEV.cfg`, or at the other positions. (The model's field `earlierConfig` is log entry 21.) -/
def Obligations.DisplayKnownExactlyWhereStated : Prop :=
  ∀ (s : State) (p : Nibble),
    (∃ segs, shownSegments s p = some segs) ↔
      s.dev.cfg = 0x03#8 ∧ p.toNat ≤ 3 ∧
        (s.earlierConfig = true ∨ ∃ x : Txn, x.cmd = 0x24#8 ∧ Event.result x .ack ∈ s.history)

/-- R127: neither a reset nor a fault blanks the display. What a position shows is shown after a later reset (log entries
19 and 21), and after a step that raises a fault, but for the failing transaction's own position, which may show that
transaction's byte (R100). -/
def Obligations.ResetAndFaultKeepDisplay : Prop :=
  (∀ (s : State) (p : Nibble), shownPattern s.blockReset p = shownPattern s p) ∧
  ∀ (s t : State) (k : FaultCode) (p : Nibble) (b : Byte), EmissionInv s → step s = .next t →
    s.block.fault = none → t.block.fault = some k → shownPattern s p = some b →
    shownPattern t p = some b ∨
      ∃ x, s.block.pending = some x ∧ x.cmd = 0x30#8 + p.setWidth 8 ∧ shownPattern t p = some x.data
end

