-- ==== Sys2Proof/Laws/State.lean ====
section
/-! SUPPORT. One lemma per field per update, all true by unfolding, so that no later proof unfolds a record update. -/

namespace Sys2Proof.Machine

variable (s : State)

/-! ## log -/
section
variable (e : Event)
@[simp] theorem log_block : (s.log e).block = s.block := rfl
@[simp] theorem log_dev : (s.log e).dev = s.dev := rfl
@[simp] theorem log_history : (s.log e).history = s.history ++ [e] := rfl
@[simp] theorem log_params : (s.log e).params = s.params := rfl
@[simp] theorem log_earlierConfig : (s.log e).earlierConfig = s.earlierConfig := rfl
@[simp] theorem log_host : (s.log e).host = s.host := rfl
@[simp] theorem log_bus : (s.log e).bus = s.bus := rfl
end

/-! ## raiseFault, refuseRequest -/
section
variable (k : FaultCode) (rq : Word)
@[simp] theorem raiseFault_opened : (raiseFault k s).block.opened = s.block.opened := rfl
@[simp] theorem raiseFault_configured : (raiseFault k s).block.configured = s.block.configured := rfl
@[simp] theorem raiseFault_fault : (raiseFault k s).block.fault = s.block.fault.or (some k) := rfl
@[simp] theorem raiseFault_op : (raiseFault k s).block.op = none := rfl
@[simp] theorem raiseFault_queue : (raiseFault k s).block.queue = [] := rfl
@[simp] theorem raiseFault_pending : (raiseFault k s).block.pending = none := rfl
@[simp] theorem raiseFault_opening : (raiseFault k s).block.opening = false := rfl
@[simp] theorem raiseFault_dev : (raiseFault k s).dev = s.dev := rfl
@[simp] theorem raiseFault_history : (raiseFault k s).history = s.history := rfl
@[simp] theorem raiseFault_params : (raiseFault k s).params = s.params := rfl
@[simp] theorem raiseFault_earlierConfig : (raiseFault k s).earlierConfig = s.earlierConfig := rfl
@[simp] theorem raiseFault_host : (raiseFault k s).host = s.host := rfl
@[simp] theorem raiseFault_bus : (raiseFault k s).bus = s.bus := rfl
@[simp] theorem refuseRequest_block :
    (refuseRequest rq k s).block = (raiseFault k s).block := rfl
@[simp] theorem refuseRequest_dev : (refuseRequest rq k s).dev = s.dev := rfl
@[simp] theorem refuseRequest_history : (refuseRequest rq k s).history = s.history ++ [.refuse rq k] := rfl
@[simp] theorem refuseRequest_params : (refuseRequest rq k s).params = s.params := rfl
@[simp] theorem refuseRequest_earlierConfig : (refuseRequest rq k s).earlierConfig = s.earlierConfig := rfl
@[simp] theorem refuseRequest_host : (refuseRequest rq k s).host = s.host := rfl
@[simp] theorem refuseRequest_bus : (refuseRequest rq k s).bus = s.bus := rfl
end

/-! ## logAccept, enqueue, openBus -/
section
variable (r : Request) (l : List Txn)
@[simp] theorem logAccept_block : (logAccept r s).block = { s.block with op := some r } := rfl
@[simp] theorem logAccept_dev : (logAccept r s).dev = s.dev := rfl
@[simp] theorem logAccept_history : (logAccept r s).history = s.history ++ [.accept r.word] := rfl
@[simp] theorem logAccept_params : (logAccept r s).params = s.params := rfl
@[simp] theorem logAccept_earlierConfig : (logAccept r s).earlierConfig = s.earlierConfig := rfl
@[simp] theorem logAccept_host : (logAccept r s).host = s.host := rfl
@[simp] theorem logAccept_bus : (logAccept r s).bus = s.bus := rfl
@[simp] theorem enqueue_block : (enqueue l s).block = { s.block with queue := l } := rfl
@[simp] theorem enqueue_dev : (enqueue l s).dev = s.dev := rfl
@[simp] theorem enqueue_history : (enqueue l s).history = s.history := rfl
@[simp] theorem enqueue_params : (enqueue l s).params = s.params := rfl
@[simp] theorem enqueue_earlierConfig : (enqueue l s).earlierConfig = s.earlierConfig := rfl
@[simp] theorem enqueue_host : (enqueue l s).host = s.host := rfl
@[simp] theorem enqueue_bus : (enqueue l s).bus = s.bus := rfl
@[simp] theorem openBus_block : (openBus s).block = { s.block with opening := true } := rfl
@[simp] theorem openBus_dev : (openBus s).dev = s.dev := rfl
@[simp] theorem openBus_history : (openBus s).history = s.history ++ [.busOpen s.params.busId] := rfl
@[simp] theorem openBus_params : (openBus s).params = s.params := rfl
@[simp] theorem openBus_earlierConfig : (openBus s).earlierConfig = s.earlierConfig := rfl
@[simp] theorem openBus_host : (openBus s).host = s.host := rfl
@[simp] theorem openBus_bus : (openBus s).bus = s.bus := rfl
end

/-! ## The expander's registers -/
section
variable (d : Byte) (p q : Nibble)
@[simp] theorem setCfg_block : (s.setCfg d).block = s.block := rfl
@[simp] theorem setCfg_history : (s.setCfg d).history = s.history := rfl
@[simp] theorem setCfg_params : (s.setCfg d).params = s.params := rfl
@[simp] theorem setCfg_earlierConfig : (s.setCfg d).earlierConfig = s.earlierConfig := rfl
@[simp] theorem setCfg_host : (s.setCfg d).host = s.host := rfl
@[simp] theorem setCfg_bus : (s.setCfg d).bus = s.bus := rfl
@[simp] theorem setCfg_cfg : (s.setCfg d).dev.cfg = d := rfl
@[simp] theorem setCfg_pos : (s.setCfg d).dev.pos = s.dev.pos := rfl
@[simp] theorem setCfg_position : (s.setCfg d).dev.position q = s.dev.position q := rfl
@[simp] theorem setPosition_block : (s.setPosition p d).block = s.block := rfl
@[simp] theorem setPosition_history : (s.setPosition p d).history = s.history := rfl
@[simp] theorem setPosition_params : (s.setPosition p d).params = s.params := rfl
@[simp] theorem setPosition_earlierConfig : (s.setPosition p d).earlierConfig = s.earlierConfig := rfl
@[simp] theorem setPosition_host : (s.setPosition p d).host = s.host := rfl
@[simp] theorem setPosition_bus : (s.setPosition p d).bus = s.bus := rfl
@[simp] theorem setPosition_dev : (s.setPosition p d).dev = s.dev.write p d := rfl
@[simp] theorem write_cfg (e : Expander) : (e.write p d).cfg = e.cfg := rfl
theorem setPosition_cfg : (s.setPosition p d).dev.cfg = s.dev.cfg := rfl

/-- A position reads what was last written to it, and every other position reads as before (R95). -/
@[simp] theorem write_position (e : Expander) :
    (e.write p d).position q = if q = p then d else e.position q := by
  simp only [Expander.write, Expander.position, Vector.getElem_set]
  by_cases h : q = p
  · simp [h]
  · have : p.toNat ≠ q.toNat := fun e => h (BitVec.eq_of_toNat_eq e.symm)
    simp [h, this]

theorem setPosition_position :
    (s.setPosition p d).dev.position q = if q = p then d else s.dev.position q := by simp
end

/-! ## The sequencer's steps -/
section
variable (t : Txn) (rest : List Txn) (r : Request)
@[simp] theorem issueStep_block :
    (issueStep t rest s).block = { s.block with pending := some t, queue := rest } := rfl
@[simp] theorem issueStep_dev : (issueStep t rest s).dev = s.dev := rfl
@[simp] theorem issueStep_history : (issueStep t rest s).history = s.history ++ [.issue t] := rfl
@[simp] theorem issueStep_params : (issueStep t rest s).params = s.params := rfl
@[simp] theorem issueStep_earlierConfig : (issueStep t rest s).earlierConfig = s.earlierConfig := rfl
@[simp] theorem issueStep_host : (issueStep t rest s).host = s.host := rfl
@[simp] theorem issueStep_bus : (issueStep t rest s).bus = s.bus := rfl
@[simp] theorem resultAck_block : (resultAck t s).block = { s.block with pending := none } := rfl
@[simp] theorem resultAck_dev : (resultAck t s).dev = s.dev := rfl
@[simp] theorem resultAck_history : (resultAck t s).history = s.history ++ [.result t .ack] := rfl
@[simp] theorem resultAck_params : (resultAck t s).params = s.params := rfl
@[simp] theorem resultAck_earlierConfig : (resultAck t s).earlierConfig = s.earlierConfig := rfl
@[simp] theorem resultAck_host : (resultAck t s).host = s.host := rfl
@[simp] theorem resultAck_bus : (resultAck t s).bus = s.bus := rfl
@[simp] theorem resultErr_block : (resultErr t s).block = (raiseFault .busTransactionError s).block := rfl
@[simp] theorem resultErr_dev : (resultErr t s).dev = s.dev := rfl
@[simp] theorem resultErr_history : (resultErr t s).history = s.history ++ [.result t .err] := rfl
@[simp] theorem resultErr_params : (resultErr t s).params = s.params := rfl
@[simp] theorem resultErr_earlierConfig : (resultErr t s).earlierConfig = s.earlierConfig := rfl
@[simp] theorem resultErr_host : (resultErr t s).host = s.host := rfl
@[simp] theorem resultErr_bus : (resultErr t s).bus = s.bus := rfl
@[simp] theorem openOk_block :
    (openOk s).block = { s.block with opening := false, opened := true, queue := [configTxn] } := rfl
@[simp] theorem openOk_dev : (openOk s).dev = s.dev := rfl
@[simp] theorem openOk_history : (openOk s).history = s.history ++ [.openResult .ok] := rfl
@[simp] theorem openOk_params : (openOk s).params = s.params := rfl
@[simp] theorem openOk_earlierConfig : (openOk s).earlierConfig = s.earlierConfig := rfl
@[simp] theorem openOk_host : (openOk s).host = s.host := rfl
@[simp] theorem openOk_bus : (openOk s).bus = s.bus := rfl
@[simp] theorem openErr_block : (openErr s).block = (raiseFault .busOpenError s).block := rfl
@[simp] theorem openErr_dev : (openErr s).dev = s.dev := rfl
@[simp] theorem openErr_history : (openErr s).history = s.history ++ [.openResult .err] := rfl
@[simp] theorem openErr_params : (openErr s).params = s.params := rfl
@[simp] theorem openErr_earlierConfig : (openErr s).earlierConfig = s.earlierConfig := rfl
@[simp] theorem openErr_host : (openErr s).host = s.host := rfl
@[simp] theorem openErr_bus : (openErr s).bus = s.bus := rfl
@[simp] theorem completeStep_block :
    (completeStep r s).block =
      { s.block with configured := s.block.configured || decide (r = .init), op := none } := rfl
@[simp] theorem completeStep_dev : (completeStep r s).dev = s.dev := rfl
@[simp] theorem completeStep_history : (completeStep r s).history = s.history ++ [.done r] := rfl
@[simp] theorem completeStep_params : (completeStep r s).params = s.params := rfl
@[simp] theorem completeStep_earlierConfig : (completeStep r s).earlierConfig = s.earlierConfig := rfl
@[simp] theorem completeStep_host : (completeStep r s).host = s.host := rfl
@[simp] theorem completeStep_bus : (completeStep r s).bus = s.bus := rfl
end

/-! ## What the host and the bus supply -/
section
variable (lt : List TxnAnswer) (lo : List OpenAnswer) (lr : List Word) (le : List Nibble)
@[simp] theorem setTxnAnswers_block : (s.setTxnAnswers lt).block = s.block := rfl
@[simp] theorem setTxnAnswers_dev : (s.setTxnAnswers lt).dev = s.dev := rfl
@[simp] theorem setTxnAnswers_history : (s.setTxnAnswers lt).history = s.history := rfl
@[simp] theorem setTxnAnswers_params : (s.setTxnAnswers lt).params = s.params := rfl
@[simp] theorem setTxnAnswers_earlierConfig : (s.setTxnAnswers lt).earlierConfig = s.earlierConfig := rfl
@[simp] theorem setTxnAnswers_host : (s.setTxnAnswers lt).host = s.host := rfl
@[simp] theorem setTxnAnswers_bus : (s.setTxnAnswers lt).bus = { s.bus with txns := lt } := rfl
@[simp] theorem setOpenAnswers_block : (s.setOpenAnswers lo).block = s.block := rfl
@[simp] theorem setOpenAnswers_dev : (s.setOpenAnswers lo).dev = s.dev := rfl
@[simp] theorem setOpenAnswers_history : (s.setOpenAnswers lo).history = s.history := rfl
@[simp] theorem setOpenAnswers_params : (s.setOpenAnswers lo).params = s.params := rfl
@[simp] theorem setOpenAnswers_earlierConfig : (s.setOpenAnswers lo).earlierConfig = s.earlierConfig := rfl
@[simp] theorem setOpenAnswers_host : (s.setOpenAnswers lo).host = s.host := rfl
@[simp] theorem setOpenAnswers_bus : (s.setOpenAnswers lo).bus = { s.bus with opens := lo } := rfl
@[simp] theorem setRequests_block : (s.setRequests lr).block = s.block := rfl
@[simp] theorem setRequests_dev : (s.setRequests lr).dev = s.dev := rfl
@[simp] theorem setRequests_history : (s.setRequests lr).history = s.history := rfl
@[simp] theorem setRequests_params : (s.setRequests lr).params = s.params := rfl
@[simp] theorem setRequests_earlierConfig : (s.setRequests lr).earlierConfig = s.earlierConfig := rfl
@[simp] theorem setRequests_host : (s.setRequests lr).host = { s.host with requests := lr } := rfl
@[simp] theorem setRequests_bus : (s.setRequests lr).bus = s.bus := rfl
@[simp] theorem setEncoderReads_block : (s.setEncoderReads le).block = s.block := rfl
@[simp] theorem setEncoderReads_dev : (s.setEncoderReads le).dev = s.dev := rfl
@[simp] theorem setEncoderReads_history : (s.setEncoderReads le).history = s.history := rfl
@[simp] theorem setEncoderReads_params : (s.setEncoderReads le).params = s.params := rfl
@[simp] theorem setEncoderReads_earlierConfig : (s.setEncoderReads le).earlierConfig = s.earlierConfig := rfl
@[simp] theorem setEncoderReads_host : (s.setEncoderReads le).host = { s.host with encoderReads := le } := rfl
@[simp] theorem setEncoderReads_bus : (s.setEncoderReads le).bus = s.bus := rfl
@[simp] theorem blockReset_block : s.blockReset.block = Block.reset := rfl
@[simp] theorem blockReset_dev : s.blockReset.dev = s.dev := rfl
@[simp] theorem blockReset_history : s.blockReset.history = [] := rfl
@[simp] theorem blockReset_params : s.blockReset.params = s.params := rfl
@[simp] theorem blockReset_earlierConfig : s.blockReset.earlierConfig = s.configSucceeded := rfl
@[simp] theorem blockReset_host : s.blockReset.host = s.host := rfl
@[simp] theorem blockReset_bus : s.blockReset.bus = s.bus := rfl
end

/-! ## Outcomes -/
section
variable (f : State → State) (x : Fault) (y : Refusal)
@[simp] theorem andThen_next : Outcome.andThen (.next s) f = .next (f s) := rfl
@[simp] theorem andThen_fault : Outcome.andThen (.fault x) f = .fault x := rfl
@[simp] theorem andThen_refused : Outcome.andThen (.refused y) f = .refused y := rfl
end

end Sys2Proof.Machine
end

