-- ==== Sys2Proof/Laws/Ops.lean ====
section
/-! SUPPORT. What each shared operation can do, said once: acceptance, the delivery of a transaction to the expander,
the registers by command address. -/

namespace Sys2Proof.Machine

/-! ## Readiness -/

theorem ready_iff (b : Block) : ready b = true ↔ b.op = none ∧ b.fault = none := by
  simp [ready, idle]

/-! ## Acceptance -/

theorem takeRequest_busy {r : Request} {begin : State → State} {s : State} (h : ready s.block = false) :
    takeRequest r begin s = .next s := by
  simp [takeRequest, h]

theorem takeRequest_refused {r : Request} {begin : State → State} {s : State} {k : FaultCode}
    (h : ready s.block = true) (hk : acceptFault r s = some k) :
    takeRequest r begin s = .next (refuseRequest r.word k s) := by
  simp [takeRequest, h, hk]

theorem takeRequest_accepted {r : Request} {begin : State → State} {s : State}
    (h : ready s.block = true) (hk : acceptFault r s = none) :
    takeRequest r begin s = .next (begin (logAccept r s)) := by
  simp [takeRequest, h, hk]

theorem acceptFault_init (s : State) :
    acceptFault .init s = if s.block.opened then some .alreadyInitialized else none := by
  cases h : s.block.opened <;> simp [acceptFault, sequenceFault, rangeFault, h]

theorem acceptFault_writeDigit (s : State) (pos val : Nibble) :
    acceptFault (.writeDigit pos val) s =
      if s.block.configured then if positionOk s.params pos then none else some .positionRange
      else some .notConfigured := by
  cases h : s.block.configured <;> simp [acceptFault, sequenceFault, rangeFault, h]

theorem acceptFault_blankDigit (s : State) (pos : Nibble) :
    acceptFault (.blankDigit pos) s =
      if s.block.configured then if positionOk s.params pos then none else some .positionRange
      else some .notConfigured := by
  cases h : s.block.configured <;> simp [acceptFault, sequenceFault, rangeFault, h]

theorem acceptFault_update (s : State) (hour : BitVec 5) (minute : BitVec 6) :
    acceptFault (.update hour minute) s =
      if s.block.configured then if timeOk hour minute then none else some .timeRange
      else some .notConfigured := by
  cases h : s.block.configured <;> simp [acceptFault, sequenceFault, rangeFault, h]

/-- A word that decodes on the request port decodes to a request. -/
theorem decodeRequest_request {w : Word} {i : Instr} (h : decodeRequest w = .ok i) :
    ∃ r : Request, i = r.instr := by
  unfold decodeRequest at h
  split at h
  · split at h
    · exact ⟨.init, by simpa [Request.instr] using h.symm⟩
    · cases h
  · split at h
    · split at h
      · exact ⟨.writeDigit (field w 8 4) (field w 0 4), by simpa [Request.instr] using h.symm⟩
      · cases h
    · split at h
      · split at h
        · exact ⟨.blankDigit (field w 8 4), by simpa [Request.instr] using h.symm⟩
        · cases h
      · split at h
        · exact ⟨.update (field w 6 5) (field w 0 6), by simpa [Request.instr] using h.symm⟩
        · cases h

/-- The only rejection the request port knows (R65). -/
theorem decodeRequest_error {w : Word} {e : Reject} (h : decodeRequest w = .error e) : e = .reservedRequest := by
  unfold decodeRequest at h
  repeat' split at h
  all_goals simp_all

/-! ## Delivery to the expander -/

@[simp] theorem wordCmd_word (t : Txn) : wordCmd t.word = t.cmd := by
  apply BitVec.eq_of_toNat_eq
  have h1 := t.cmd.isLt
  have h2 := t.data.isLt
  simp only [wordCmd, field, Txn.word, BitVec.extractLsb'_toNat, BitVec.toNat_append,
    Nat.shiftRight_eq_div_pow, Nat.shiftLeft_eq, Nat.or_comm (t.cmd.toNat * 2 ^ 8)]
  rw [Nat.or_comm, Nat.mul_comm, ← Nat.two_pow_add_eq_or_of_lt h2]
  omega

@[simp] theorem wordData_word (t : Txn) : wordData t.word = t.data := by
  apply BitVec.eq_of_toNat_eq
  have h2 := t.data.isLt
  simp only [wordData, field, Txn.word, BitVec.extractLsb'_toNat, BitVec.toNat_append,
    Nat.shiftRight_eq_div_pow, Nat.shiftLeft_eq]
  rw [Nat.mul_comm, ← Nat.two_pow_add_eq_or_of_lt h2]
  omega

/-- The high half of a word's command byte. -/
theorem field_high (w : Word) : field w 12 4 = (wordCmd w).extractLsb' 4 4 := by
  apply BitVec.eq_of_toNat_eq
  simp only [wordCmd, field, BitVec.extractLsb'_toNat, Nat.shiftRight_eq_div_pow]
  omega

/-- The low half of a word's command byte. -/
theorem field_low (w : Word) : field w 8 4 = (wordCmd w).extractLsb' 0 4 := by
  apply BitVec.eq_of_toNat_eq
  simp only [wordCmd, field, BitVec.extractLsb'_toNat, Nat.shiftRight_eq_div_pow]
  omega

/-- What the expander does with a transaction, read off its command byte (R94, R95, R97 to R99, R57). -/
theorem deliver_eq (t : Txn) (s : State) :
    deliver t s =
      if t.cmd = configCommandCode then .next (s.setCfg t.data)
      else if t.cmd.extractLsb' 4 4 = 0x3#4 then .next (s.setPosition (t.cmd.extractLsb' 0 4) t.data)
      else if t.cmd = cmdSetOcL then .refused .setOcLNoMeaning
      else if t.cmd = cmdSetOcH then .refused .setOcHNoMeaning
      else if t.cmd = cmdReadIo then .refused .readIoNoMeaning
      else .refused (.unlistedCommand t.cmd) := by
  unfold deliver
  simp only [decode, decodeTransaction, field_high, field_low, wordCmd_word, wordData_word]
  by_cases h1 : t.cmd = configCommandCode
  · simp only [h1, if_true, exec, execConfig]
  by_cases h2 : t.cmd.extractLsb' 4 4 = 0x3#4
  · simp only [h1, h2, if_true, if_false, exec, execWriteIo]
  by_cases h3 : t.cmd = cmdSetOcL
  · simp only [h1, h2, if_pos h3, if_false, exec, execSetOcL]
  by_cases h4 : t.cmd = cmdSetOcH
  · simp only [h1, h2, h3, if_pos h4, if_false, exec, execSetOcH]
  by_cases h5 : t.cmd = cmdReadIo
  · simp only [h1, h2, h3, h4, if_pos h5, if_false, exec, execReadIo]
  · simp only [h1, h2, h3, h4, h5, if_false]

/-- A delivery that gives a next state wrote the configuration register or one position, and nothing else. -/
theorem deliver_next {t : Txn} {s u : State} (h : deliver t s = .next u) :
    (t.cmd = configCommandCode ∧ u = s.setCfg t.data) ∨
      (t.cmd.extractLsb' 4 4 = 0x3#4 ∧ t.cmd ≠ configCommandCode ∧
        u = s.setPosition (t.cmd.extractLsb' 0 4) t.data) := by
  rw [deliver_eq] at h
  split at h
  next hc => cases h; exact .inl ⟨hc, rfl⟩
  next hc =>
    split at h
    next hh => cases h; exact .inr ⟨hh, hc, rfl⟩
    next => repeat' split at h
            all_goals cases h

/-! ## The registers by command address -/

/-- A command byte is its two halves. -/
theorem command_split {c d : Byte} (hi : c.extractLsb' 4 4 = d.extractLsb' 4 4)
    (lo : c.extractLsb' 0 4 = d.extractLsb' 0 4) : c = d := by
  apply BitVec.eq_of_toNat_eq
  have hi := congrArg BitVec.toNat hi
  have lo := congrArg BitVec.toNat lo
  have := c.isLt
  have := d.isLt
  simp only [BitVec.extractLsb'_toNat, Nat.shiftRight_eq_div_pow] at hi lo
  omega

theorem byteAt_setCfg (s : State) (d c : Byte) :
    (s.setCfg d).dev.byteAt c = if c = configCommandCode then some d else s.dev.byteAt c := by
  unfold Expander.byteAt
  by_cases h : c = configCommandCode <;> simp [h]

theorem byteAt_setPosition (s : State) (c e d : Byte) (he : e.extractLsb' 4 4 = 0x3#4)
    (hn : e ≠ configCommandCode) :
    (s.setPosition (e.extractLsb' 0 4) d).dev.byteAt c = if c = e then some d else s.dev.byteAt c := by
  unfold Expander.byteAt
  by_cases h : c = e
  · subst h
    simp [hn, he]
  · by_cases h1 : c = configCommandCode
    · subst h1
      simp [h]
    · by_cases h2 : c.extractLsb' 4 4 = 0x3#4
      · have h3 : c.extractLsb' 0 4 ≠ e.extractLsb' 0 4 := fun h3 => h (command_split (h2.trans he.symm) h3)
        simp [h, h1, h2, h3]
      · simp [h, h1, h2]

/-- What a delivered transaction leaves at every command address: its byte at its own, the old byte at every other. -/
theorem deliver_byteAt {t : Txn} {s u : State} (h : deliver t s = .next u) (c : Byte) :
    u.dev.byteAt c = if c = t.cmd then some t.data else s.dev.byteAt c := by
  rcases deliver_next h with ⟨hc, rfl⟩ | ⟨hh, hc, rfl⟩
  · rw [byteAt_setCfg, hc]
  · exact byteAt_setPosition s c t.cmd t.data hh hc

/-- A delivery changes the expander only. -/
theorem deliver_frame {t : Txn} {s u : State} (h : deliver t s = .next u) : u = { s with dev := u.dev } := by
  rcases deliver_next h with ⟨_, rfl⟩ | ⟨_, _, rfl⟩ <;> rfl

end Sys2Proof.Machine
end

