-- ==== Sys2Proof/Laws/Step.lean ====
section
/-! SUPPORT. Everything a step can do, said once: if a step answers a next state, one of the named moves took place. -/

namespace Sys2Proof.Machine

/-- The moves of the machine from `s` to a next state. -/
inductive Moves (s : State) : State → Prop where
  /-- ENCODE on the encoder port (R67). -/
  | encode (v : Nibble) (rest : List Nibble) (hv : s.host.encoderReads = v :: rest) :
      Moves s { s with host := { s.host with encoderReads := rest, pattern := some (enc v) } }
  /-- A faulted block takes no step (R105). -/
  | faulted (he : s.host.encoderReads = []) (hf : s.block.fault ≠ none) : Moves s s
  /-- No answer to the pending transaction (R114). -/
  | waitResult (he : s.host.encoderReads = []) (hf : s.block.fault = none) (t : Txn)
      (hp : s.block.pending = some t) (hb : s.bus.txns = []) : Moves s s
  /-- ResultStep(ack) (R73). -/
  | ack (he : s.host.encoderReads = []) (hf : s.block.fault = none) (t : Txn) (rest : List TxnAnswer) (u : State)
      (hp : s.block.pending = some t) (hb : s.bus.txns = .ack :: rest)
      (hd : deliver t (s.setTxnAnswers rest) = .next u) : Moves s (resultAck t u)
  /-- ResultStep(err), the register having taken the byte (R73, R100). -/
  | errLatched (he : s.host.encoderReads = []) (hf : s.block.fault = none) (t : Txn) (rest : List TxnAnswer)
      (u : State) (hp : s.block.pending = some t) (hb : s.bus.txns = .err true :: rest)
      (hd : deliver t (s.setTxnAnswers rest) = .next u) : Moves s (resultErr t u)
  /-- ResultStep(err), the register unchanged (R73, R100). -/
  | errUnchanged (he : s.host.encoderReads = []) (hf : s.block.fault = none) (t : Txn) (rest : List TxnAnswer)
      (hp : s.block.pending = some t) (hb : s.bus.txns = .err false :: rest) :
      Moves s (resultErr t (s.setTxnAnswers rest))
  /-- No answer to the open (R114). -/
  | waitOpen (he : s.host.encoderReads = []) (hf : s.block.fault = none) (hp : s.block.pending = none)
      (ho : s.block.opening = true) (hb : s.bus.opens = []) : Moves s s
  /-- OpenResultStep(ok) (R76). -/
  | openOk (he : s.host.encoderReads = []) (hf : s.block.fault = none) (hp : s.block.pending = none)
      (ho : s.block.opening = true) (rest : List OpenAnswer) (hb : s.bus.opens = .ok :: rest) :
      Moves s (openOk (s.setOpenAnswers rest))
  /-- OpenResultStep(err) (R76). -/
  | openErr (he : s.host.encoderReads = []) (hf : s.block.fault = none) (hp : s.block.pending = none)
      (ho : s.block.opening = true) (rest : List OpenAnswer) (hb : s.bus.opens = .err :: rest) :
      Moves s (openErr (s.setOpenAnswers rest))
  /-- IssueStep (R73). -/
  | issue (he : s.host.encoderReads = []) (hf : s.block.fault = none) (hp : s.block.pending = none)
      (ho : s.block.opening = false) (r : Request) (hr : s.block.op = some r) (t : Txn) (rest : List Txn)
      (hq : s.block.queue = t :: rest) : Moves s (issueStep t rest s)
  /-- CompleteStep (R82). -/
  | complete (he : s.host.encoderReads = []) (hf : s.block.fault = none) (hp : s.block.pending = none)
      (ho : s.block.opening = false) (r : Request) (hr : s.block.op = some r) (hq : s.block.queue = []) :
      Moves s (completeStep r s)
  /-- A ready block with no word at the port. -/
  | idle (he : s.host.encoderReads = []) (hf : s.block.fault = none) (hp : s.block.pending = none)
      (ho : s.block.opening = false) (hr : s.block.op = none) (hq : s.host.requests = []) : Moves s s
  /-- A word with a reserved bit set (R110). -/
  | reserved (he : s.host.encoderReads = []) (hf : s.block.fault = none) (hp : s.block.pending = none)
      (ho : s.block.opening = false) (hr : s.block.op = none) (w : Word) (rest : List Word)
      (hq : s.host.requests = w :: rest) (hw : decode .request w = .error .reservedRequest) :
      Moves s (refuseRequest w .reservedRequest (s.setRequests rest))
  /-- A request refused at acceptance (R112). -/
  | refuse (he : s.host.encoderReads = []) (hf : s.block.fault = none) (hp : s.block.pending = none)
      (ho : s.block.opening = false) (hr : s.block.op = none) (w : Word) (rest : List Word)
      (hq : s.host.requests = w :: rest) (r : Request) (hw : decode .request w = .ok r.instr) (k : FaultCode)
      (hk : acceptFault r s = some k) : Moves s (refuseRequest r.word k (s.setRequests rest))
  /-- INIT accepted (R75). -/
  | acceptInit (he : s.host.encoderReads = []) (hf : s.block.fault = none) (hp : s.block.pending = none)
      (ho : s.block.opening = false) (hr : s.block.op = none) (w : Word) (rest : List Word)
      (hq : s.host.requests = w :: rest) (hw : decode .request w = .ok .init)
      (hk : s.block.opened = false) : Moves s (openBus (logAccept .init (s.setRequests rest)))
  /-- A digit request accepted (R79, R81, R85), `l` being the transactions it is to issue. -/
  | acceptDigits (he : s.host.encoderReads = []) (hf : s.block.fault = none) (hp : s.block.pending = none)
      (ho : s.block.opening = false) (hr : s.block.op = none) (w : Word) (rest : List Word)
      (hq : s.host.requests = w :: rest) (r : Request) (hw : decode .request w = .ok r.instr) (l : List Txn)
      (hk : acceptFault r s = none) (hc : s.block.configured = true)
      (hl : (∃ pos val, r = .writeDigit pos val ∧ positionOk s.params pos = true ∧ l = [digitTxn pos val]) ∨
        (∃ pos, r = .blankDigit pos ∧ positionOk s.params pos = true ∧ l = [blankTxn pos]) ∨
        (∃ hour minute, r = .update hour minute ∧ timeOk hour minute = true ∧
          l = frameTxns s.params.updateOrder hour.toNat minute.toNat)) :
      Moves s (enqueue l (logAccept r (s.setRequests rest)))

/-- The acceptance of a decoded request is one of the moves. -/
theorem exec_request_moves {s t : State} {w : Word} {rest : List Word} {r : Request}
    (he : s.host.encoderReads = []) (hf : s.block.fault = none) (hp : s.block.pending = none)
    (ho : s.block.opening = false) (hr : s.block.op = none) (hq : s.host.requests = w :: rest)
    (hw : decode .request w = .ok r.instr) (h : exec r.instr (s.setRequests rest) = .next t) : Moves s t := by
  have hready : ready (s.setRequests rest).block = true := by simp [ready_iff, hr, hf]
  have same : acceptFault r (s.setRequests rest) = acceptFault r s := rfl
  cases hk : acceptFault r s with
  | some k =>
    have hm := Moves.refuse he hf hp ho hr w rest hq r hw k hk
    rw [← same] at hk
    cases r <;>
      simp only [Request.instr, exec, execInit, execWriteDigit, execBlankDigit, execUpdate,
        takeRequest_refused hready hk, Host.Outcome.next.injEq] at h <;>
      exact h ▸ hm
  | none =>
    have hk' := hk
    rw [← same] at hk'
    cases r with
    | init =>
      simp only [Request.instr, exec, execInit, takeRequest_accepted hready hk', Host.Outcome.next.injEq] at h
      refine h ▸ .acceptInit he hf hp ho hr w rest hq hw ?_
      simpa [acceptFault_init] using hk
    | writeDigit pos val =>
      simp only [Request.instr, exec, execWriteDigit, takeRequest_accepted hready hk', Host.Outcome.next.injEq] at h
      rw [acceptFault_writeDigit] at hk
      refine h ▸ .acceptDigits he hf hp ho hr w rest hq _ hw _ (same ▸ hk') ?_ (.inl ⟨pos, val, rfl, ?_, rfl⟩) <;>
        revert hk <;> cases s.block.configured <;> cases positionOk s.params pos <;> simp
    | blankDigit pos =>
      simp only [Request.instr, exec, execBlankDigit, takeRequest_accepted hready hk', Host.Outcome.next.injEq] at h
      rw [acceptFault_blankDigit] at hk
      refine h ▸ .acceptDigits he hf hp ho hr w rest hq _ hw _ (same ▸ hk') ?_ (.inr (.inl ⟨pos, rfl, ?_, rfl⟩)) <;>
        revert hk <;> cases s.block.configured <;> cases positionOk s.params pos <;> simp
    | update hour minute =>
      simp only [Request.instr, exec, execUpdate, takeRequest_accepted hready hk', Host.Outcome.next.injEq] at h
      rw [acceptFault_update] at hk
      refine h ▸ .acceptDigits he hf hp ho hr w rest hq _ hw _ (same ▸ hk') ?_
        (.inr (.inr ⟨hour, minute, rfl, ?_, rfl⟩)) <;>
        revert hk <;> cases s.block.configured <;> cases timeOk hour minute <;> simp

/-- The encoder port's four lines never give an out-of-range value (R71). -/
@[simp] theorem encInteger_toNat (v : Nibble) : encInteger v.toNat = .ok (enc v) := by
  simp [encInteger, v.isLt]

/-- A step that answers a next state is one of the moves. -/
theorem step_moves {s t : State} (h : step s = .next t) : Moves s t := by
  unfold step nextStep at h
  split at h
  next v rest hv =>
    simp only [exec, execEncode, encInteger_toNat, Host.Outcome.next.injEq] at h
    exact h ▸ .encode v rest hv
  next he =>
    unfold blockStep at h
    split at h
    next hf => cases h; exact .faulted he (by simpa [Option.isSome_iff_ne_none] using hf)
    next hf =>
      replace hf : s.block.fault = none := by simpa using hf
      split at h
      next x hp =>
        unfold resultStep at h
        split at h
        next hb => cases h; exact .waitResult he hf x hp hb
        next rest hb =>
          cases hd : deliver x (s.setTxnAnswers rest) <;> simp [hd] at h
          exact h ▸ .ack he hf x rest _ hp hb hd
        next rest hb =>
          cases hd : deliver x (s.setTxnAnswers rest) <;> simp [hd] at h
          exact h ▸ .errLatched he hf x rest _ hp hb hd
        next rest hb => cases h; exact .errUnchanged he hf x rest hp hb
      next hp =>
        split at h
        next ho =>
          simp only [Host.Outcome.next.injEq] at h
          unfold openResultStep at h
          split at h
          next hb => exact h ▸ .waitOpen he hf hp ho hb
          next rest hb => exact h ▸ .openOk he hf hp ho rest hb
          next rest hb => exact h ▸ .openErr he hf hp ho rest hb
        next ho =>
          replace ho : s.block.opening = false := by simpa using ho
          split at h
          next hr =>
            unfold acceptStep at h
            split at h
            next hq => cases h; exact .idle he hf hp ho hr hq
            next w rest hq =>
              split at h
              next i hw =>
                obtain ⟨r, rfl⟩ := decodeRequest_request hw
                exact exec_request_moves he hf hp ho hr hq hw h
              next e hw =>
                cases h
                exact .reserved he hf hp ho hr w rest hq (decodeRequest_error hw ▸ hw)
          next r x rest hr hq => cases h; exact .issue he hf hp ho r hr x rest hq
          next r hr hq => cases h; exact .complete he hf hp ho r hr hq

end Sys2Proof.Machine
end

