-- ==== Sys2Proof/Laws/Display.lean ====
section
/-! SUPPORT. When the display is known, said once: what it rests on in the history and the registers, and that no step
and no reset takes a successful CONFIG back. -/

namespace Sys2Proof.Machine

/-- An event records a successful CONFIG exactly when it is such a result. -/
theorem isConfigSuccess_iff (e : Event) :
    isConfigSuccess e = true ↔ ∃ x : Txn, x.cmd = configCommandCode ∧ e = .result x .ack := by
  cases e <;> simp [isConfigSuccess]

/-- A CONFIG has succeeded: before a later reset, or by a result in the history. -/
theorem configSucceeded_iff (s : State) :
    s.configSucceeded = true ↔
      s.earlierConfig = true ∨ ∃ x : Txn, x.cmd = configCommandCode ∧ Event.result x .ack ∈ s.history := by
  simp only [State.configSucceeded, Bool.or_eq_true, List.any_eq_true, isConfigSuccess_iff]
  constructor
  · rintro (h | ⟨e, he, x, hx, rfl⟩)
    · exact .inl h
    · exact .inr ⟨x, hx, he⟩
  · rintro (h | ⟨x, hx, he⟩)
    · exact .inl h
    · exact .inr ⟨_, he, x, hx, rfl⟩

/-- A longer history keeps that a CONFIG has succeeded. -/
theorem configSucceeded_append {s t : State} {more : List Event} (h : s.configSucceeded = true)
    (he : t.earlierConfig = s.earlierConfig) (hh : t.history = s.history ++ more) : t.configSucceeded = true := by
  simp only [State.configSucceeded, he, hh, List.any_append, Bool.or_eq_true] at h ⊢
  exact h.elim .inl fun h => .inr (.inl h)

@[simp] theorem blockReset_configSucceeded (s : State) : s.blockReset.configSucceeded = s.configSucceeded := by
  simp [State.configSucceeded, State.blockReset]

/-- The display is known in terms of the registers, the wiring and a successful CONFIG (R96). -/
theorem displayKnown_iff (s : State) (p : Nibble) :
    displayKnown s p = true ↔ s.configSucceeded = true ∧ s.dev.cfg = 0x03#8 ∧ p.toNat < numDigits := by
  simp only [displayKnown, Bool.and_eq_true, decide_eq_true_eq]
  have wired : numDigits = 4 := rfl
  constructor
  · exact fun ⟨⟨⟨h1, h2⟩, _⟩, h4⟩ => ⟨h1, h2, h4⟩
  · exact fun ⟨h1, h2, h4⟩ => ⟨⟨⟨h1, h2⟩, by omega⟩, h4⟩

@[simp] theorem blockReset_displayKnown (s : State) (p : Nibble) : displayKnown s.blockReset p = displayKnown s p := by
  simp only [displayKnown, blockReset_configSucceeded]
  rfl

theorem shownPattern_eq_some {s : State} {p : Nibble} {b : Byte} :
    shownPattern s p = some b ↔ displayKnown s p = true ∧ s.dev.position p = b := by
  unfold shownPattern
  split <;> simp_all

/-- A later reset changes nothing of what is shown (R121, R127). -/
@[simp] theorem blockReset_shownPattern (s : State) (p : Nibble) : shownPattern s.blockReset p = shownPattern s p := by
  simp only [shownPattern, blockReset_displayKnown, blockReset_dev]

end Sys2Proof.Machine
end

