-- ==== Sys2Proof/Laws/PerInstr.lean ====
section
/-! SUPPORT. Family TableMatch: the word of every well-formed instruction matches its row of spec/opcode_table.json. -/

namespace Sys2Proof.Laws.TableMatch

/-- The row's "mask" and "match". ENCODE's row has neither; its word is the four input lines, the other bits 0. -/
def row : Instr → Word × Word
  | .init => (0xFFFF#16, 0x0000#16)
  | .writeDigit _ _ => (0xF0F0#16, 0x4000#16)
  | .blankDigit _ => (0xF0FF#16, 0x8000#16)
  | .update _ _ => (0xF800#16, 0xC000#16)
  | .encode _ => (0xFFF0#16, 0x0000#16)
  | .config _ => (0xFF00#16, 0x2400#16)
  | .writeIo _ _ => (0xF000#16, 0x3000#16)
  | .setOcL _ => (0xFF00#16, 0x2200#16)
  | .setOcH _ => (0xFF00#16, 0x2300#16)
  | .readIo _ => (0xFF00#16, 0x2600#16)

/-- The instruction's word, under the row's mask, is the row's match. -/
def Statement (i : Instr) : Prop := i.WellFormed → Sys2Proof.encode i &&& (row i).1 = (row i).2

/-- A transaction word under the mask of its command byte. -/
theorem append_mask : ∀ c d : Byte, (c ++ d : Word) &&& 0xFF00#16 = c ++ 0#8 := by
  intro c d
  ext i hi
  have h : ∀ k, k < 16 → (0xFF00#16).getLsbD k = decide (8 ≤ k) := by decide
  simp only [← BitVec.getLsbD_eq_getElem, BitVec.getLsbD_and, BitVec.getLsbD_append, h i hi]
  by_cases h8 : i < 8 <;> simp [h8]
  omega

theorem init : Statement .init := fun _ => by decide
theorem writeDigit (pos val : Nibble) : Statement (.writeDigit pos val) := fun _ => by
  revert pos val; decide
theorem blankDigit (pos : Nibble) : Statement (.blankDigit pos) := fun _ => by
  revert pos; decide
theorem update (hour : BitVec 5) (minute : BitVec 6) : Statement (.update hour minute) := fun _ => by
  revert hour minute; decide
theorem encode (value : Nat) : Statement (.encode value) := fun h => by
  have hv : value < 16 := by simpa [Instr.WellFormed, Instr.wellFormed] using h
  have all : ∀ v, v < 16 → Sys2Proof.encode (.encode v) &&& 0xFFF0#16 = 0x0000#16 := by decide
  exact all value hv
theorem config (data : Byte) : Statement (.config data) := fun _ => append_mask configCommandCode data
theorem writeIo (pos : Nibble) (data : Byte) : Statement (.writeIo pos data) := fun _ => by
  have h1 : Sys2Proof.encode (.writeIo pos data) &&& 0xF000#16 =
      (Sys2Proof.encode (.writeIo pos data) &&& 0xFF00#16) &&& 0xF000#16 := by
    rw [BitVec.and_assoc]; rfl
  have h2 : ∀ p : Nibble, ((writeIoCommand p ++ 0#8 : Word) &&& 0xF000#16) = 0x3000#16 := by decide
  exact h1.trans ((congrArg (· &&& 0xF000#16) (append_mask (writeIoCommand pos) data)).trans (h2 pos))
theorem setOcL (data : Byte) : Statement (.setOcL data) := fun _ => append_mask cmdSetOcL data
theorem setOcH (data : Byte) : Statement (.setOcH data) := fun _ => append_mask cmdSetOcH data
theorem readIo (data : Byte) : Statement (.readIo data) := fun _ => append_mask cmdReadIo data

end Sys2Proof.Laws.TableMatch
end

