-- ==== Sys2Proof/Laws/Run.lean ====
section
/-! SUPPORT. Runs, and the block's steps in the states where each is enabled. -/

namespace Sys2Proof.Machine

/-! ## Runs -/

@[simp] theorem run_zero (s : State) : run 0 s = .next s := rfl

/-- One more step at the front of a machine's run. -/
theorem core_run_succ (M : Host.Core) {s t : M.State} {n : Nat} (h : M.step s = .next t) :
    M.run (n + 1) s = M.run n t := by
  simp only [Host.Core.run, h]

/-- One more step at the front of a run. -/
theorem run_succ {s t : State} {n : Nat} (h : step s = .next t) : run (n + 1) s = run n t :=
  core_run_succ Sys2Proof.core h

/-! ## Each step where it is enabled -/

theorem step_encode {s : State} {v : Nibble} {rest : List Nibble} (he : s.host.encoderReads = v :: rest) :
    step s = .next { s with host := { s.host with encoderReads := rest, pattern := some (enc v) } } := by
  unfold step nextStep
  split
  next v' rest' h =>
    obtain ⟨rfl, rfl⟩ := List.cons.inj (h.symm.trans he)
    simp [exec, execEncode, State.setEncoderReads]
  next h => simp [he] at h

theorem step_block {s : State} (he : s.host.encoderReads = []) : step s = blockStep s := by
  unfold step nextStep
  split
  next h => simp [he] at h
  next => rfl

theorem step_faulted {s : State} (he : s.host.encoderReads = []) (hf : s.block.fault ≠ none) :
    step s = .next s := by
  rw [step_block he, blockStep, if_pos (Option.isSome_iff_ne_none.2 hf)]

theorem step_pending {s : State} {t : Txn} (he : s.host.encoderReads = []) (hf : s.block.fault = none)
    (hp : s.block.pending = some t) : step s = resultStep t s := by
  simp [step_block he, blockStep, hf, hp]

theorem step_opening {s : State} (he : s.host.encoderReads = []) (hf : s.block.fault = none)
    (hp : s.block.pending = none) (ho : s.block.opening = true) : step s = .next (openResultStep s) := by
  simp [step_block he, blockStep, hf, hp, ho]

theorem step_issue {s : State} {r : Request} {t : Txn} {rest : List Txn} (he : s.host.encoderReads = [])
    (hf : s.block.fault = none) (hp : s.block.pending = none) (ho : s.block.opening = false)
    (hr : s.block.op = some r) (hq : s.block.queue = t :: rest) : step s = .next (issueStep t rest s) := by
  simp [step_block he, blockStep, hf, hp, ho, hr, hq]

theorem step_complete {s : State} {r : Request} (he : s.host.encoderReads = []) (hf : s.block.fault = none)
    (hp : s.block.pending = none) (ho : s.block.opening = false) (hr : s.block.op = some r)
    (hq : s.block.queue = []) : step s = .next (completeStep r s) := by
  simp [step_block he, blockStep, hf, hp, ho, hr, hq]

theorem step_accept {s : State} (he : s.host.encoderReads = []) (hf : s.block.fault = none)
    (hp : s.block.pending = none) (ho : s.block.opening = false) (hr : s.block.op = none) :
    step s = acceptStep s := by
  simp [step_block he, blockStep, hf, hp, ho, hr]

/-- A ready block of a state that meets the invariant has nothing outstanding. -/
theorem ControlInv.ready_quiet {s : State} (hi : ControlInv s) (h : ready s.block = true) :
    s.block.op = none ∧ s.block.fault = none ∧ s.block.queue = [] ∧ s.block.pending = none ∧
      s.block.opening = false := by
  obtain ⟨hop, hf⟩ := (ready_iff _).1 h
  refine ⟨hop, hf, hi.idle_empty hop, ?_, ?_⟩
  · by_contra hp
    exact (hi.laws.pending_busy hp).1 hop
  · cases ho : s.block.opening
    · rfl
    · simpa [hop] using (hi.laws.opening_init ho).1

/-! ## Position writes -/

/-- A frame has as many transactions as the order has entries. -/
theorem frameTxns_length (order : List (Fin 4)) (hour minute : Nat) :
    (frameTxns order hour minute).length = order.length := by
  simp [frameTxns]

/-- The command byte of a position write, as a sum (R49). -/
theorem writeIoCommand_eq : ∀ p : Nibble, writeIoCommand p = 0x30#8 + p.setWidth 8 := by decide

@[simp] theorem writeIoCommand_high : ∀ p : Nibble, (writeIoCommand p).extractLsb' 4 4 = 0x3#4 := by decide

@[simp] theorem writeIoCommand_low : ∀ p : Nibble, (writeIoCommand p).extractLsb' 0 4 = p := by decide

@[simp] theorem writeIoCommand_ne_config : ∀ p : Nibble, writeIoCommand p ≠ configCommandCode := by decide

/-- A position write is not the configuration transaction. -/
@[simp] theorem positionTxn_ne_config (p : Nibble) (d : Byte) : positionTxn p d ≠ configTxn := fun h =>
  writeIoCommand_ne_config p (congrArg Txn.cmd h)

/-- A position write that reaches the expander (R95). -/
@[simp] theorem deliver_position (p : Nibble) (d : Byte) (s : State) :
    deliver (positionTxn p d) s = .next (s.setPosition p d) := by
  simp [deliver_eq, positionTxn]

/-- The configuration transaction that reaches the expander (R94). -/
@[simp] theorem deliver_config (s : State) : deliver configTxn s = .next (s.setCfg 0x03#8) := by
  rw [deliver_eq, if_pos (by rfl)]
  rfl

/-- A frame's transaction for position `i` is a write to position `i`. -/
theorem frameTxn_eq (hour minute : Nat) (i : Fin 4) :
    frameTxn hour minute i = positionTxn (BitVec.ofNat 4 i.val) (frameTxn hour minute i).data := by
  fin_cases i
  · simp only [frameTxn]
    split <;> rfl
  all_goals rfl

/-! ## Parts of a run -/

/-- A decoded request accepted by a ready block, `begin` being the request's own part. -/
theorem run_accept {s : State} {w : Word} {rest : List Word} {r : Request} {begin : State → State} (n : Nat)
    (hi : ControlInv s) (he : s.host.encoderReads = []) (hr : ready s.block = true)
    (hq : s.host.requests = w :: rest) (hw : decode .request w = .ok r.instr)
    (hx : exec r.instr (s.setRequests rest) = takeRequest r begin (s.setRequests rest))
    (hk : acceptFault r s = none) : run (n + 1) s = run n (begin (logAccept r (s.setRequests rest))) := by
  obtain ⟨hop, hf, -, hp, ho⟩ := hi.ready_quiet hr
  refine run_succ ?_
  rw [step_accept he hf hp ho hop, acceptStep, hq]
  simp only [hw, hx]
  exact takeRequest_accepted (by simpa using hr) hk

/-- One position write, issued and acknowledged (R73, R95). -/
theorem run_position_ack {s : State} {r : Request} {p : Nibble} {d : Byte} {rest : List Txn} {l : List TxnAnswer}
    (n : Nat) (he : s.host.encoderReads = []) (hf : s.block.fault = none) (hp : s.block.pending = none)
    (ho : s.block.opening = false) (hr : s.block.op = some r) (hq : s.block.queue = positionTxn p d :: rest)
    (hb : s.bus.txns = .ack :: l) :
    run (n + 2) s = run n { s with
      block := { s.block with queue := rest }
      dev := s.dev.write p d
      history := s.history ++ [.issue (positionTxn p d), .result (positionTxn p d) .ack]
      bus := { s.bus with txns := l } } := by
  rw [run_succ (step_issue he hf hp ho hr hq)]
  refine run_succ ?_
  rw [step_pending (t := positionTxn p d) (by simpa using he) (by simpa using hf) rfl, resultStep]
  simp only [issueStep_bus, hb, deliver_position, andThen_next]
  simp [resultAck, issueStep, State.log, State.setTxnAnswers, State.setPosition, ← hp]

/-- The events of a list of position writes, each issued and acknowledged. -/
def ackedEvents (l : List (Nibble × Byte)) : List Event :=
  l.flatMap fun x => [.issue (positionTxn x.1 x.2), .result (positionTxn x.1 x.2) .ack]

/-- A list of position writes at the head of the queue, each issued and acknowledged in order (R43, R73). -/
theorem run_positions_ack (l : List (Nibble × Byte)) {s : State} {r : Request} {rest : List Txn}
    {as : List TxnAnswer} (n : Nat) (he : s.host.encoderReads = []) (hf : s.block.fault = none)
    (hp : s.block.pending = none) (ho : s.block.opening = false) (hr : s.block.op = some r)
    (hq : s.block.queue = l.map (fun x => positionTxn x.1 x.2) ++ rest)
    (hb : s.bus.txns = List.replicate l.length .ack ++ as) :
    run (n + 2 * l.length) s = run n { s with
      block := { s.block with queue := rest }
      dev := l.foldl (fun e x => e.write x.1 x.2) s.dev
      history := s.history ++ ackedEvents l
      bus := { s.bus with txns := as } } := by
  induction l generalizing s with
  | nil =>
    simp only [List.map_nil, List.nil_append] at hq
    simp only [List.length_nil, List.replicate_zero, List.nil_append] at hb
    simp [ackedEvents, ← hq, ← hb]
  | cons x l ih =>
    have hlen : n + 2 * (x :: l).length = (n + 2 * l.length) + 2 := by simp only [List.length_cons]; omega
    rw [hlen, run_position_ack _ he hf hp ho hr hq (l := List.replicate l.length .ack ++ as) (by simp [hb, List.replicate_succ])]
    rw [ih (by exact he) (by exact hf) (by exact hp) (by exact ho) (by exact hr) rfl rfl]
    simp [ackedEvents]

end Sys2Proof.Machine
end

