-- ==== Sys2Proof/Tests/Slice0.lean ====
section
/-! SUPPORT. Tests, their expected results taken from spec/95_test_vectors.md or worked out by hand from the rule each
names, and one witness for the hypotheses of each obligation. -/

namespace Sys2Proof.Tests

open Sys2Proof Sys2Proof.Machine

/-! ## Small states -/

/-- A machine with this block, the display's parameters, registers that hold 0x77, and these ports. -/
def machine (b : Block) (requests : List Word) (opens : List OpenAnswer) (txns : List TxnAnswer) : State :=
  { block := b
    dev := { cfg := 0xA0#8, pos := Vector.replicate 16 0x77#8 }
    history := []
    earlierConfig := false
    params := { maxPosition := 3, updateOrder := [0, 1, 2, 3], busId := 1 }
    host := { requests := requests, encoderReads := [], pattern := none }
    bus := { opens := opens, txns := txns } }

/-- A block after INIT. -/
def configuredBlock : Block := { Block.reset with opened := true, configured := true }

/-- A configured block carrying out WRITE_DIGIT 1, 7, its transaction pending. -/
def writingBlock : Block :=
  { configuredBlock with op := some (.writeDigit 1 7), pending := some { cmd := 0x31#8, data := 0x07#8 } }

/-- A block whose INIT has called the open. -/
def openingBlock : Block := { Block.reset with op := some .init, opening := true }

/-- A configured block that has raised a fault. -/
def faultedBlock (k : FaultCode) : Block := { configuredBlock with fault := some k }

/-- The state after INIT has configured the expander. -/
def configured : State :=
  { machine configuredBlock [0x4107#16] [] [.ack] with
    dev := { cfg := 0x03#8, pos := Vector.replicate 16 0x77#8 }
    history := [.accept 0x0000#16, .busOpen 1, .openResult .ok, .issue configTxn, .result configTxn .ack, .done .init] }

/-- The next state of an outcome. -/
def got : Outcome → Option State
  | .next s => some s
  | _ => none

/-- The block's fault in the next state. -/
def faultAfter (o : Outcome) : Option FaultCode := (got o).bind fun s => s.block.fault

/-- The bytes at positions 0 to 3. -/
def digits (s : State) : List Byte := [s.dev.position 0, s.dev.position 1, s.dev.position 2, s.dev.position 3]

/-! ## Decoding: one word or more of every row, written out from spec/30_encoding.md -/

-- R61: op 00, bits 13:0 zero.
theorem test_decode_init : decode .request 0b0000000000000000#16 = .ok .init := by decide
-- R62: 01 00 pos 0011 0000 val 1111.
theorem test_decode_write_digit : decode .request 0b0100001100001111#16 = .ok (.writeDigit 3 15) := by decide
-- R63: 10 00 pos 1001 0000 0000.
theorem test_decode_blank_digit : decode .request 0b1000100100000000#16 = .ok (.blankDigit 9) := by decide
-- R64: 11 000 hour 10111 minute 111011, UPDATE 23:59.
theorem test_decode_update : decode .request 0b1100010111111011#16 = .ok (.update 23 59) := by decide
-- R59, R67: value[3:0] = 1011.
theorem test_decode_encode : decode .encoderPort 0b0000000000001011#16 = .ok (.encode 11) := by decide
-- R51: 0010 0100, data 0000 0011.
theorem test_decode_config : decode .bus 0b0010010000000011#16 = .ok (.config 0x03) := by decide
-- R53: 0011, position 1110, data 0101 1011.
theorem test_decode_write_io : decode .bus 0b0011111001011011#16 = .ok (.writeIo 14 0x5B) := by decide
-- R55: 0010 0010, data 1010 0101.
theorem test_decode_set_oc_l : decode .bus 0b0010001010100101#16 = .ok (.setOcL 0xA5) := by decide
-- R55: 0010 0011, data 1010 0101.
theorem test_decode_set_oc_h : decode .bus 0b0010001110100101#16 = .ok (.setOcH 0xA5) := by decide
-- R56: 0010 0110, data 1000 0001.
theorem test_decode_read_io : decode .bus 0b0010011010000001#16 = .ok (.readIo 0x81) := by decide

-- R65, and 95_test_vectors.md IN6, IN8, WD4, WD5, BD4, BD6, UP10, UP11: each reserved field alone.
theorem test_reserved_words :
    [0x0001#16, 0x2000#16, 0x4010#16, 0x5000#16, 0x8001#16, 0x9000#16, 0xC800#16, 0xE000#16].all
      (fun w => decide (decode .request w = .error .reservedRequest)) = true := by decide
-- R57: the neighbours of every listed command byte.
theorem test_unlisted_commands :
    [0x2100#16, 0x2500#16, 0x2700#16, 0x2F00#16, 0x4000#16, 0xFF00#16].all
      (fun w => decide (decode .bus w = .error (.unlistedCommand (wordCmd w)))) = true := by decide
-- R59: the encoder port has four lines.
theorem test_encoder_port_width : decode .encoderPort 0x0010#16 = .error .beyondEncoderPort := by decide
-- The words of 95_test_vectors.md, from the instructions.
theorem test_encode_words :
    [encode .init, encode (.writeDigit 1 7), encode (.blankDigit 3), encode (.update 7 5), encode (.config 0x03),
      encode (.writeIo 2 0x3F)] = [0x0000#16, 0x4107#16, 0x8300#16, 0xC1C5#16, 0x2403#16, 0x323F#16] := by decide
-- The table's numbering: 16 bits for requests and bus words, one byte for ENCODE.
theorem test_table_words :
    [decodeTableWord 16 0x4107, decodeTableWord 16 0x3107, decodeTableWord 8 0x05, decodeTableWord 8 0x10,
      decodeTableWord 16 0x5000] = [some (.writeDigit 1 7), some (.writeIo 1 7), some (.encode 5), none, none] := by
  decide
-- R66.
theorem test_notation :
    [Instr.notate (.writeDigit 1 7), Instr.notate (.update 7 5), Instr.notate (.writeIo 2 0x3F)] =
      ["WRITE_DIGIT 1, 7", "UPDATE 07:05", "WRITE_IO 2, 0x3f"] := by decide

/-! ## Well-formedness: the one check, and an ill-formed term it refuses -/

theorem test_wellFormed_top : Instr.wellFormed (.encode 15) = true := by decide
theorem test_illFormed_encode : Instr.wellFormed (.encode 16) = false := by decide

/-! ## One step of each instruction -/

-- 95_test_vectors.md, ENCODE 0x5 and ENCODE 0xC (R68).
theorem test_encode_five :
    (got (exec (.encode 5) (machine Block.reset [] [] []))).bind (fun t => t.host.pattern) = some 0x6D#8 := by decide
theorem test_encode_twelve :
    (got (exec (.encode 12) (machine Block.reset [] [] []))).bind (fun t => t.host.pattern) = some 0x58#8 := by decide
-- IN1: the acceptance of INIT. IN5: a second INIT.
theorem test_init_opens :
    (got (exec .init (machine Block.reset [] [] []))).map (fun t => (t.block, t.history)) =
      some (openingBlock, [.accept 0x0000#16, .busOpen 1]) := by decide
theorem test_init_twice : faultAfter (exec .init (machine configuredBlock [] [] [])) = some .alreadyInitialized := by
  decide
-- WRITE_DIGIT 3, 0xF queues 0x3371 (WD1); WRITE_DIGIT 4, 0 is POSITION_RANGE (WD2).
theorem test_write_digit_queue :
    (got (exec (.writeDigit 3 15) (machine configuredBlock [] [] []))).map (fun t => t.block.queue.map Txn.word) =
      some [0x3371#16] := by decide
theorem test_write_digit_range :
    (got (exec (.writeDigit 4 0) (machine configuredBlock [] [] []))).map (fun t => (t.block.fault, t.history)) =
      some (some .positionRange, [.refuse 0x4400#16 .positionRange]) := by decide
-- BLANK_DIGIT 0 queues 0x3000 (BD1); not configured is NOT_CONFIGURED (BD8).
theorem test_blank_digit_queue :
    (got (exec (.blankDigit 0) (machine configuredBlock [] [] []))).map (fun t => t.block.queue.map Txn.word) =
      some [0x3000#16] := by decide
theorem test_blank_digit_early : faultAfter (exec (.blankDigit 0) (machine Block.reset [] [] [])) = some .notConfigured :=
  by decide
-- UPDATE 10:00 blanks position 0 (UP2); UPDATE 23:60 is TIME_RANGE (UP5).
theorem test_update_ten :
    (got (exec (.update 10 0) (machine configuredBlock [] [] []))).map (fun t => t.block.queue.map Txn.word) =
      some [0x3000#16, 0x313F#16, 0x323F#16, 0x333F#16] := by decide
theorem test_update_range : faultAfter (exec (.update 23 60) (machine configuredBlock [] [] [])) = some .timeRange := by
  decide
-- X1, X2: CONFIG 0x03; WRITE_IO 2, 0x3F, the other positions unchanged.
theorem test_config :
    (got (exec (.config 0x03) (machine Block.reset [] [] []))).map (fun t => (t.dev.cfg, digits t)) =
      some (0x03#8, [0x77#8, 0x77#8, 0x77#8, 0x77#8]) := by decide
theorem test_write_io :
    (got (exec (.writeIo 2 0x3F) (machine Block.reset [] [] []))).map (fun t => (t.dev.cfg, digits t)) =
      some (0xA0#8, [0x77#8, 0x77#8, 0x3F#8, 0x77#8]) := by decide
-- R97, R98, R99: a model of the expander refuses each.
theorem test_set_oc_l : exec (.setOcL 0xA5) (machine Block.reset [] [] []) = .refused .setOcLNoMeaning := rfl
theorem test_set_oc_h : exec (.setOcH 0xA5) (machine Block.reset [] [] []) = .refused .setOcHNoMeaning := rfl
theorem test_read_io : exec (.readIo 0x00) (machine Block.reset [] [] []) = .refused .readIoNoMeaning := rfl
-- R71: an integer above 15.
theorem test_encode_sixteen : exec (.encode 16) (machine Block.reset [] [] []) = .fault .valueRange := rfl

/-! ## One step of the sequencer, and what the display shows -/

-- X3 (R100): both draws of a failed WRITE_IO 1, 0x07 over 0x77.
theorem test_failed_write_draws :
    [false, true].map (fun latched =>
      (got (step (machine writingBlock [] [] [.err latched]))).map fun t => (t.dev.position 1, t.block.fault)) =
      [some (0x77#8, some .busTransactionError), some (0x07#8, some .busTransactionError)] := by decide
-- WD8 (R112): the sequence check comes before the range check; WD7: the reserved check before both.
theorem test_check_order :
    [0x4400#16, 0x4410#16].map (fun w => faultAfter (step (machine Block.reset [w] [] []))) =
      [some .notConfigured, some .reservedRequest] := by decide
-- R69: ENC(7) lights a, b, c.
theorem test_seven_segments : litSegments (enc 7) = [.a, .b, .c] := by decide
-- R54: the fields of 0x03, and R28's INTENS over bits 6:5.
theorem test_cfg_fields : (cfgFields configWord).ioEn = true ∧ (cfgFields configWord).decL = true ∧
    (cfgFields configWord).decH = false ∧ (cfgFields 0x60#8).intens = 0b11#2 := by decide
-- R96, U3: nothing is shown before a CONFIG has succeeded, though DEV.cfg may hold 0x03 (a power-on draw).
theorem test_shown_before_config :
    shownPattern ((machine Block.reset [] [] []).setCfg 0x03#8) 0 = none := by decide
-- R96, R29: after INIT positions 0 to 3 show their bytes, 4, 7 and 8 nothing that the spec says; R127: a reset keeps it.
theorem test_shown_after_config :
    [configured, configured.blockReset].map (fun s => [0#4, 3#4, 4#4, 7#4, 8#4].map (shownPattern s)) =
      List.replicate 2 [some 0x77#8, some 0x77#8, none, none, none] := by decide
-- R131: program P4, which ends faulted, has not ended well before its first word is taken.
theorem test_words_left_is_no_end : ¬ EndsWell (machine Block.reset [0x4001#16, 0x0000#16] [] []) := by
  simp [EndsWell, machine]
-- R24: what the host observes of a faulted block.
theorem test_status : status (faultedBlock .timeRange) =
    { configured := true, fault := some .timeRange, ready := false } := by decide
-- R102: the codes.
theorem test_codes : [FaultCode.busOpenError, .busTransactionError, .notConfigured, .alreadyInitialized,
    .positionRange, .timeRange, .reservedRequest, .valueRange].map FaultCode.code = [1, 2, 3, 4, 5, 6, 7, 8] := by decide

/-! ## From reset, with one instruction placed -/

theorem test_placed_init :
    (got (step (State.reset.withFetchWord 16 0x0000))).map (fun t => t.block.opening) = some true := by decide
theorem test_placed_encode :
    (got (step (State.reset.withFetchWord 8 0x05))).bind (fun t => t.host.pattern) = some 0x6D#8 := by decide
theorem test_placed_update : faultAfter (step (State.reset.withFetchWord 16 0xC1C5)) = some .notConfigured := by decide
theorem test_placed_write_io :
    (got (step (State.reset.withFetchWord 16 0x323F))).map (fun t => t.dev.position 2) = some 0x3F#8 := by decide
theorem test_placed_read_io : step (State.reset.withFetchWord 16 0x2600) = .refused .readIoNoMeaning := rfl

/-! ## Witnesses: the hypotheses of each obligation are met together -/

theorem legal_machine (b : Block) (rq : List Word) (o : List OpenAnswer) (x : List TxnAnswer) :
    (machine b rq o x).params.legal := ⟨Nat.le_refl 3, by simp [machine], .refl _⟩

/-- A block with nothing in progress meets the invariant. -/
theorem control_quiet {s : State} (hp : s.params.legal) (hc : s.block.configured = true → s.block.opened = true)
    (h1 : s.block.op = none) (h2 : s.block.queue = []) (h3 : s.block.pending = none) (h4 : s.block.opening = false) :
    ControlInv s where
  laws :=
    { configured_opened := hc
      pending_busy := fun h => absurd h3 h
      opening_init := fun h => by simp [h4] at h
      fault_quiet := fun _ => ⟨h1, h2, h3, h4⟩
      digit_configured := fun r h => by simp [h1] at h }
  init_opened := fun h => by simp [h1] at h
  idle_empty := fun _ => h2
  queue_short := by simp [h2]
  legal := hp

theorem control_reset (rq : List Word) (o : List OpenAnswer) (x : List TxnAnswer) :
    ControlInv (machine Block.reset rq o x) :=
  control_quiet (legal_machine ..) (fun h => h) rfl rfl rfl rfl

theorem control_configured (rq : List Word) (o : List OpenAnswer) (x : List TxnAnswer) :
    ControlInv (machine configuredBlock rq o x) :=
  control_quiet (legal_machine ..) (fun h => h) rfl rfl rfl rfl

theorem control_opening (rq : List Word) (o : List OpenAnswer) (x : List TxnAnswer) :
    ControlInv (machine openingBlock rq o x) where
  laws := show BlockLaws openingBlock from
    ⟨by decide, by decide, by decide, by decide, fun r h hn => by cases h; exact absurd rfl hn⟩
  init_opened := fun _ h => absurd h (by simp [machine, openingBlock])
  idle_empty := fun _ => rfl
  queue_short := Nat.zero_le 4
  legal := legal_machine ..

theorem control_writing (rq : List Word) (o : List OpenAnswer) (x : List TxnAnswer) :
    ControlInv (machine writingBlock rq o x) where
  laws := show BlockLaws writingBlock from ⟨by decide, by decide, by decide, by decide, fun _ _ _ => rfl⟩
  init_opened := fun _ _ => rfl
  idle_empty := fun _ => rfl
  queue_short := Nat.zero_le 4
  legal := legal_machine ..

/-! ### Encodings -/

theorem witness_DecodeOfEncodeIsInstruction :
    [Instr.update 23 59, .writeDigit 15 15, .encode 15, .writeIo 15 0xFF].all Instr.wellFormed = true := by decide
theorem witness_EncodeOfDecodeIsWord :
    decode .request 0xC7FF#16 = .ok (.update 31 63) ∧ decode .bus 0x3FFF#16 = .ok (.writeIo 15 0xFF) ∧
      decode .encoderPort 0x000F#16 = .ok (.encode 15) := by decide
theorem witness_RequestWordsLegalByMask :
    decode .request 0x4F0F#16 = .ok (.writeDigit 15 15) ∧ ∀ i, decode .request 0x4010#16 ≠ .ok i := by
  refine ⟨by decide, fun i h => ?_⟩
  have e : decode .request 0x4010#16 = .error .reservedRequest := by decide
  rw [e] at h
  cases h
theorem witness_TransactionWordsListed :
    [0x22#8, 0x23#8, 0x24#8, 0x26#8, 0x30#8, 0x3F#8].all
        (fun c => (decode .bus (Txn.word { cmd := c, data := 0xFF#8 })).toOption.isSome) = true ∧
      ∀ i, decode .bus (Txn.word { cmd := 0x40#8, data := 0xFF#8 }) ≠ .ok i := by
  refine ⟨by decide, fun i h => ?_⟩
  have e : decode .bus (Txn.word { cmd := 0x40#8, data := 0xFF#8 }) = .error (.unlistedCommand 0x40#8) := by decide
  rw [e] at h
  cases h

/-! ### A step runs the decoded instruction -/

theorem witness_StepRunsDecodedRequest :
    ∃ (s : State) (w : Word) (rest : List Word) (i : Instr), ControlInv s ∧ s.host.encoderReads = [] ∧ ready s.block = true ∧ s.host.requests = w :: rest ∧
      decode .request w = .ok i :=
  ⟨machine configuredBlock [0xC1C5#16] [] [], 0xC1C5#16, [], .update 7 5, control_configured .., rfl, rfl, rfl,
    by decide⟩
theorem witness_StepRunsEncodeAtThePort :
    ((machine writingBlock [] [] []).setEncoderReads [15#4]).host.encoderReads = 15#4 :: [] := rfl
theorem witness_StepRunsDecodedBusCommand :
    ∃ (s : State) (t : Txn) (rest : List TxnAnswer) (i : Instr), s.host.encoderReads = [] ∧ s.block.fault = none ∧ s.block.pending = some t ∧
      s.bus.txns = .ack :: rest ∧ decode .bus t.word = .ok i :=
  ⟨machine writingBlock [] [] [.ack], { cmd := 0x31#8, data := 0x07#8 }, [], .writeIo 1 0x07, rfl, rfl, rfl, rfl,
    by decide⟩

/-! ### ENCODE -/

theorem witness_EncodeShowsLutEntry :
    [0x3F#8, 0x06#8, 0x5B#8, 0x4F#8, 0x66#8, 0x6D#8, 0x7D#8, 0x07#8,
      0x7F#8, 0x6F#8, 0x77#8, 0x7C#8, 0x58#8, 0x5E#8, 0x79#8, 0x71#8][15]? = some 0x71#8 := rfl
theorem witness_EncodeAboveFifteenFaults : 15 < 16 := by decide
theorem witness_EncodePatternsDistinct : 0 < 16 ∧ 15 < 16 := by decide

/-! ### Requests at acceptance -/

theorem witness_InitAcceptedOpensBus :
    ready (machine Block.reset [] [] []).block = true ∧ (machine Block.reset [] [] []).block.opened = false :=
  ⟨rfl, rfl⟩
theorem witness_WriteDigitAcceptedQueuesPattern :
    ready (machine configuredBlock [] [] []).block = true ∧ (machine configuredBlock [] [] []).block.configured = true ∧
      (3#4).toNat ≤ (machine configuredBlock [] [] []).params.maxPosition := ⟨rfl, rfl, by decide⟩
theorem witness_BlankDigitAcceptedQueuesBlank :
    ready (machine configuredBlock [] [] []).block = true ∧ (machine configuredBlock [] [] []).block.configured = true ∧
      (0#4).toNat ≤ (machine configuredBlock [] [] []).params.maxPosition := ⟨rfl, rfl, by decide⟩
/-- Hours on both sides of the strict comparison, and the largest time. -/
theorem witness_UpdateAcceptedQueuesFrame :
    ready (machine configuredBlock [] [] []).block = true ∧ (machine configuredBlock [] [] []).block.configured = true ∧
      ∀ h ∈ [0#5, 10#5, 11#5, 23#5], h.toNat ≤ 23 ∧ (59#6).toNat ≤ 59 := ⟨rfl, rfl, by decide⟩
theorem witness_RequestNotReadyIsHeld :
    Instr.space .init = .request ∧ ready (machine writingBlock [] [] []).block = false ∧
      ready (machine (faultedBlock .timeRange) [] [] []).block = false := ⟨rfl, rfl, rfl⟩
/-- One word for every fault of acceptance, and one that is taken, on a block where each is decided. -/
theorem witness_AcceptanceFollowsCheckOrder :
    (∀ w : Word, ControlInv (machine Block.reset [w] [] []) ∧ ready (machine Block.reset [w] [] []).block = true) ∧
    (∀ w : Word, ControlInv (machine configuredBlock [w] [] []) ∧
      ready (machine configuredBlock [w] [] []).block = true) ∧
    [0x0000, 0x0001, 0x4400].map (fun w => firstFault w Block.reset (machine Block.reset [] [] []).params) =
      [none, some .reservedRequest, some .notConfigured] ∧
    [0x0000, 0x4300, 0x4400, 0x8400, 0xC5FB, 0xC5FC, 0xC600, 0xC800].map
        (fun w => firstFault w configuredBlock (machine Block.reset [] [] []).params) =
      [some .alreadyInitialized, none, some .positionRange, some .positionRange, none, some .timeRange,
        some .timeRange, some .reservedRequest] :=
  ⟨fun _ => ⟨control_reset .., rfl⟩, fun _ => ⟨control_configured .., rfl⟩, by decide, by decide⟩

/-! ### The steps inside a request -/

theorem witness_IssueStepSendsQueueHead :
    ∃ (s : State) (r : Request) (t : Txn) (rest : List Txn), s.host.encoderReads = [] ∧ s.block.fault = none ∧
      s.block.op = some r ∧ s.block.pending = none ∧ s.block.opening = false ∧ s.block.queue = t :: rest :=
  ⟨machine { configuredBlock with op := some (.blankDigit 0), queue := [{ cmd := 0x30#8, data := 0x00#8 }] } [] [] [],
    .blankDigit 0, { cmd := 0x30#8, data := 0x00#8 }, [], rfl, rfl, rfl, rfl, rfl, rfl⟩

/-- A block with a transaction of this command pending. -/
def pendingBlock (c : Byte) : Block := { writingBlock with pending := some { cmd := c, data := 0x07#8 } }

/-- The configuration register and both ends of the positions. -/
theorem witness_AckWritesTargetOnly :
    ∀ c ∈ [0x24#8, 0x30#8, 0x3F#8], ∃ (s : State) (t : Txn) (rest : List TxnAnswer), s.host.encoderReads = [] ∧ s.block.fault = none ∧
      s.block.pending = some t ∧ s.bus.txns = .ack :: rest ∧ t.cmd = c ∧
      (t.cmd = 0x24#8 ∨ (0x30 ≤ t.cmd.toNat ∧ t.cmd.toNat ≤ 0x3F)) := fun c hc =>
  ⟨machine (pendingBlock c) [] [] [.ack], { cmd := c, data := 0x07#8 }, [], rfl, rfl, rfl, rfl, rfl,
    by revert c; decide⟩
theorem witness_FailedTransactionTargetIsDraw :
    ∀ c ∈ [0x24#8, 0x30#8, 0x3F#8], ∀ latched : Bool, ∃ (s : State) (t : Txn) (rest : List TxnAnswer), s.host.encoderReads = [] ∧ s.block.fault = none ∧
      s.block.pending = some t ∧ s.bus.txns = .err latched :: rest ∧ t.cmd = c ∧
      (t.cmd = 0x24#8 ∨ (0x30 ≤ t.cmd.toNat ∧ t.cmd.toNat ≤ 0x3F)) := fun c hc latched =>
  ⟨machine (pendingBlock c) [] [] [.err latched], { cmd := c, data := 0x07#8 }, [], rfl, rfl, rfl, rfl, rfl,
    by revert c; decide⟩
theorem witness_OpenAnswerConfiguresOrFaults :
    ∀ a : OpenAnswer, ∃ (s : State) (rest : List OpenAnswer), s.host.encoderReads = [] ∧ s.block.fault = none ∧ s.block.pending = none ∧
      s.block.opening = true ∧ s.bus.opens = a :: rest := fun a =>
  ⟨machine openingBlock [] [a] [], [], rfl, rfl, rfl, rfl, rfl⟩
theorem witness_CompletionEndsRequest :
    ∀ r : Request, ∃ s : State, s.host.encoderReads = [] ∧ s.block.fault = none ∧ s.block.op = some r ∧
      requestDone s.block = true := fun r =>
  ⟨machine { configuredBlock with op := some r } [] [] [], rfl, rfl, rfl, rfl⟩
/-- An acceptance, a completion, a fault. -/
theorem witness_RequestChangesOnlyByAcceptDoneFault :
    ∀ s ∈ [machine Block.reset [0x0000#16] [] [], machine { configuredBlock with op := some .init } [] [] [],
        machine openingBlock [] [.err] []],
      ∃ t, got (step s) = some t ∧ s.block.op ≠ t.block.op := by
  simp only [List.forall_mem_cons]
  exact ⟨⟨_, rfl, by decide⟩, ⟨_, rfl, by decide⟩, ⟨_, rfl, by decide⟩, by simp⟩
theorem witness_BusyBlockHoldsRequests :
    ∃ s t, s.block.op ≠ none ∧ s.host.requests ≠ [] ∧ step s = .next t :=
  ⟨machine writingBlock [0x0000#16] [] [.ack], _, by decide, by decide, rfl⟩

/-! ### Whole requests -/

theorem witness_InitRunConfiguresExpander :
    ∃ s rest opens txns, ControlInv s ∧ s.host.encoderReads = [] ∧ ready s.block = true ∧ s.block.opened = false ∧
      s.host.requests = 0x0000#16 :: rest ∧ s.bus.opens = .ok :: opens ∧ s.bus.txns = .ack :: txns :=
  ⟨machine Block.reset [0x0000#16] [.ok] [.ack], [], [], [], control_reset .., rfl, rfl, rfl, rfl, rfl, rfl⟩
/-- Both failures, and both draws of the second. -/
theorem witness_InitFailuresAreFatal :
    ∀ a : OpenAnswer, ∀ latched : Bool, ∃ s rest opens txns, ControlInv s ∧ s.host.encoderReads = [] ∧
      ready s.block = true ∧ s.block.opened = false ∧ s.host.requests = 0x0000#16 :: rest ∧
      s.bus.opens = a :: opens ∧ s.bus.txns = .err latched :: txns := fun a latched =>
  ⟨machine Block.reset [0x0000#16] [a] [.err latched], [], [], [], control_reset .., rfl, rfl, rfl, rfl, rfl, rfl⟩
theorem witness_WriteDigitRunShowsDigit :
    ∃ s rest txns, ControlInv s ∧ s.host.encoderReads = [] ∧ ready s.block = true ∧ s.block.configured = true ∧
      (3#4).toNat ≤ s.params.maxPosition ∧ s.host.requests = encode (.writeDigit 3 15) :: rest ∧
      s.bus.txns = .ack :: txns :=
  ⟨machine configuredBlock [encode (.writeDigit 3 15)] [] [.ack], [], [], control_configured .., rfl, rfl, rfl,
    by decide, rfl, rfl⟩
theorem witness_BlankDigitRunBlanks :
    ∃ s rest txns, ControlInv s ∧ s.host.encoderReads = [] ∧ ready s.block = true ∧ s.block.configured = true ∧
      (0#4).toNat ≤ s.params.maxPosition ∧ s.host.requests = encode (.blankDigit 0) :: rest ∧
      s.bus.txns = .ack :: txns :=
  ⟨machine configuredBlock [encode (.blankDigit 0)] [] [.ack], [], [], control_configured .., rfl, rfl, rfl,
    by decide, rfl, rfl⟩
theorem witness_UpdateRunShowsFrame :
    ∀ hour ∈ [0#5, 10#5, 11#5, 23#5], ∃ s rest txns, ControlInv s ∧ s.host.encoderReads = [] ∧ ready s.block = true ∧
      s.block.configured = true ∧ hour.toNat ≤ 23 ∧ (59#6).toNat ≤ 59 ∧
      s.host.requests = encode (.update hour 59) :: rest ∧ s.bus.txns = .ack :: .ack :: .ack :: .ack :: txns :=
  fun hour hh => ⟨machine configuredBlock [encode (.update hour 59)] [] [.ack, .ack, .ack, .ack], [], [],
    control_configured .., rfl, rfl, rfl, by revert hour; decide, by decide, rfl, rfl⟩
/-- The first and the last transaction of a frame, both draws. -/
theorem witness_UpdateFailureLeavesMixedFrame :
    ∀ k ∈ [0, 3], ∀ latched : Bool, ∃ s rest txns, ControlInv s ∧ s.host.encoderReads = [] ∧ ready s.block = true ∧
      s.block.configured = true ∧ (12#5).toNat ≤ 23 ∧ (34#6).toNat ≤ 59 ∧
      s.host.requests = encode (.update 12 34) :: rest ∧ k < 4 ∧
      s.bus.txns = List.replicate k .ack ++ .err latched :: txns := fun k hk latched =>
  ⟨machine configuredBlock [encode (.update 12 34)] [] (List.replicate k .ack ++ [.err latched]), [], [],
    control_configured .., rfl, rfl, rfl, by decide, by decide, rfl, by revert k; decide, rfl⟩

/-! ### The expander -/

theorem witness_UnlistedCommandRefused :
    ∀ c ∈ [0x00#8, 0x21#8, 0x25#8, 0x27#8, 0x2F#8, 0x40#8, 0xFF#8], ∀ a ∈ [TxnAnswer.ack, .err true],
      ∃ (s : State) (t : Txn) (rest : List TxnAnswer), s.host.encoderReads = [] ∧ s.block.fault = none ∧ s.block.pending = some t ∧ t.cmd = c ∧
        (s.bus.txns = .ack :: rest ∨ s.bus.txns = .err true :: rest) ∧
        t.cmd ≠ 0x22#8 ∧ t.cmd ≠ 0x23#8 ∧ t.cmd ≠ 0x24#8 ∧ t.cmd ≠ 0x26#8 ∧
        (t.cmd.toNat < 0x30 ∨ 0x3F < t.cmd.toNat) := fun c hc a ha =>
  ⟨machine (pendingBlock c) [] [] [a], { cmd := c, data := 0x07#8 }, [], rfl, rfl, rfl, rfl,
    by simpa [machine] using ha, by revert c; decide, by revert c; decide, by revert c; decide, by revert c; decide,
    by revert c; decide⟩
theorem witness_ExpanderChangesOnlyByTransaction :
    ∃ s t, step s = .next t ∧ t.dev.byteAt 0x31#8 ≠ s.dev.byteAt 0x31#8 :=
  ⟨machine writingBlock [] [] [.ack], _, rfl, by decide⟩
/-- Both ends of the wired positions, the CONFIG having succeeded in this run, and in one before a later reset. -/
theorem witness_WrittenByteShownRaw :
    (∀ p ∈ [0#4, 3#4], configured.dev.cfg = 0x03#8 ∧ p.toNat ≤ 3) ∧ configTxn.cmd = 0x24#8 ∧
      .result configTxn .ack ∈ configured.history ∧ configured.blockReset.dev.cfg = 0x03#8 ∧
      configured.blockReset.earlierConfig = true := by decide

/-! ### Faults and hangs -/

/-- A fault of acceptance, one of the open, and one of a transaction. -/
theorem witness_FaultEntryDropsRequestAndStops :
    (∃ t, step (machine Block.reset [0x4400#16] [] []) = .next t ∧ t.block.fault = some .notConfigured) ∧
    (∃ t, step (machine openingBlock [] [.err] []) = .next t ∧ t.block.fault = some .busOpenError) ∧
    (∃ t, step (machine writingBlock [] [] [.err true]) = .next t ∧ t.block.fault = some .busTransactionError) ∧
    (machine Block.reset [] [] []).block.fault = none :=
  ⟨⟨_, rfl, by decide⟩, ⟨_, rfl, by decide⟩, ⟨_, rfl, by decide⟩, rfl⟩
theorem witness_FaultedBlockStaysQuiescent :
    (machine (faultedBlock .positionRange) [0x4000#16] [] []).block.fault = some .positionRange := rfl
theorem witness_UnansweredBusHangsBlock :
    Hung (machine openingBlock [] [] []) ∧ Hung (machine writingBlock [] [] []) :=
  ⟨.inl ⟨rfl, rfl, rfl⟩, .inr ⟨by decide, rfl⟩⟩
theorem witness_OpenedOnlyBySuccessfulOpen :
    (∃ t, step (machine openingBlock [] [.ok] []) = .next t ∧ t.block.opened = true) ∧
      ControlInv (machine openingBlock [] [.ok] []) ∧ (machine openingBlock [] [.ok] []).block.opened = false ∧
      (∃ t, step (machine writingBlock [] [] [.err true]) = .next t) ∧
      (machine writingBlock [] [] [.err true]).block.opened = true :=
  ⟨⟨_, rfl, by decide⟩, control_opening .., rfl, ⟨_, rfl⟩, rfl⟩
theorem witness_ConfiguredOnlyByInitCompletion :
    (∃ s t, step s = .next t ∧ s.block.configured = false ∧ t.block.configured = true) ∧
      (∃ s t, step s = .next t ∧ s.block.configured = true) ∧
      ∀ i ∈ [Instr.writeDigit 0 0, .blankDigit 0, .update 0 0], i.space = .request ∧ i ≠ .init ∧
        ready (machine Block.reset [] [] []).block = true ∧ (machine Block.reset [] [] []).block.configured = false :=
  ⟨⟨machine { Block.reset with op := some .init, opened := true } [] [] [], _, rfl, rfl, by decide⟩,
    ⟨machine writingBlock [] [] [.ack], _, rfl, rfl⟩, by decide⟩

/-! ### Invariants: states in the middle of a run, and a step from each -/

/-- INIT with its configuration transaction pending, as the steps from reset leave it. -/
def configuring : State :=
  { machine { Block.reset with op := some .init, opened := true, pending := some configTxn } [] [] [.ack] with
    history := [.accept 0x0000#16, .busOpen 1, .openResult .ok, .issue configTxn] }

theorem control_configuring : ControlInv configuring where
  laws := ⟨by decide, by decide, by decide, by decide, fun r h hn => by cases h; exact absurd rfl hn⟩
  init_opened := by decide
  idle_empty := by decide
  queue_short := by decide
  legal := (control_reset [] [] []).legal

theorem witness_StepKeepsControlInvariant : ∃ t, ControlInv configuring ∧ step configuring = .next t :=
  ⟨_, control_configuring, rfl⟩
theorem witness_StepKeepsEmissionClosed : ∃ t, EmissionInv configuring ∧ step configuring = .next t := by
  refine ⟨_, ⟨(control_configuring).legal, ?_, ?_, ?_⟩, rfl⟩
  · simp [configuring, machine, Block.reset]
  · intro t h
    cases h
    exact .inl (by decide)
  · intro t h
    simp only [configuring, List.mem_cons, reduceCtorEq, false_or, List.not_mem_nil, or_false, Event.issue.injEq] at h
    exact h ▸ .inl (by decide)
theorem witness_StepKeepsBusSequential : ∃ t, BusTraceInv configuring ∧ step configuring = .next t :=
  ⟨_, ⟨control_configuring, by decide⟩, rfl⟩
theorem witness_StepKeepsRegistersMatchHistory : ∃ t, DevMatchesHistory configured ∧ step configured = .next t := by
  refine ⟨_, fun c d h => ?_, rfl⟩
  have h' : (if configTxn.cmd = c then decide (TxnOutcome.ack = .ack) && decide (configTxn.data = d) else false) = true := h
  split at h'
  next hc =>
    obtain rfl := hc
    have hd : configTxn.data = d := by simpa using h'
    obtain rfl := hd
    decide
  next => cases h'
theorem witness_StepKeepsConfigFirstAndOnce : ∃ t, GateInv configuring ∧ step configuring = .next t := by
  refine ⟨_, ⟨control_configuring, ?_, by decide, by decide, by decide, ?_, ?_, ?_⟩, rfl⟩
  · intro before after t h hn
    have hm : Event.issue t ∈ configuring.history := by rw [h]; simp
    simp only [configuring, List.mem_cons, reduceCtorEq, false_or, List.not_mem_nil, or_false, Event.issue.injEq] at hm
    exact absurd hm hn
  · exact fun _ => ⟨by decide, fun t h => by cases h; rfl⟩
  · exact fun _ _ => .inr (.inl rfl)
  · exact fun r h hn => by cases h; exact absurd rfl hn
theorem initial_machine (rq : List Word) (o : List OpenAnswer) (x : List TxnAnswer) :
    Initial (machine Block.reset rq o x) := ⟨rfl, rfl, legal_machine ..⟩
theorem witness_InitialStatesMeetInvariants : Initial (machine Block.reset [0x0000#16] [.ok] [.ack]) :=
  initial_machine ..

/-- What a run from a reachable state leads to is reachable. -/
theorem reachable_run (n : Nat) {s t : State} (hs : Reachable s) (h : run n s = .next t) : Reachable t := by
  induction n generalizing s with
  | zero => cases h; exact hs
  | succ n ih =>
    cases hx : step s with
    | next u => exact ih (.step hs hx) ((run_succ hx).symm.trans h)
    | fault r => exact absurd h (by simp [run, Host.Core.run, core, hx])
    | refused r => exact absurd h (by simp [run, Host.Core.run, core, hx])

/-- For each clause of R22, a reachable state it speaks of. -/
theorem witness_ReachableStatesSatisfyR22 :
    (∃ s, Reachable s ∧ s.block.opening = true) ∧ (∃ s, Reachable s ∧ s.block.pending ≠ none) ∧
      (∃ s, Reachable s ∧ s.block.configured = true ∧ s.block.op = some (.writeDigit 1 7)) ∧
      (∃ s, Reachable s ∧ s.block.fault ≠ none) := by
  have h0 := Reachable.initial (initial_machine [0x0000#16, 0x4107#16, 0x4400#16] [.ok] [.ack, .ack])
  exact ⟨⟨_, reachable_run 1 h0 rfl, by decide⟩, ⟨_, reachable_run 3 h0 rfl, by decide⟩,
    ⟨_, reachable_run 6 h0 rfl, by decide⟩, ⟨_, reachable_run 10 h0 rfl, by decide⟩⟩
/-- A transaction that is pending, and one that has its result. -/
theorem witness_ReachableIssuesHaveResults :
    ∀ n ∈ [3, 4], ∃ s, Reachable s ∧ .issue configTxn ∈ s.history ∧
      run n (machine Block.reset [0x0000#16] [.ok] [.ack]) = .next s := by
  have h0 := Reachable.initial (initial_machine [0x0000#16] [.ok] [.ack])
  simp only [List.forall_mem_cons]
  exact ⟨⟨_, reachable_run 3 h0 rfl, by decide, rfl⟩, ⟨_, reachable_run 4 h0 rfl, by decide, rfl⟩, by simp⟩
/-- A transaction issued in a run that ended in a fault. -/
theorem witness_ReachableIssuesHaveResults_faulted :
    ∃ s, Reachable s ∧ .issue configTxn ∈ s.history ∧ s.block.fault ≠ none :=
  ⟨_, reachable_run 4 (.initial (initial_machine [0x0000#16] [.ok] [.err true])) rfl, by decide, by decide⟩
theorem witness_HistoryOnlyGrowsUnread : ∃ t, step configuring = .next t := ⟨_, rfl⟩
/-- The three ends of a run. -/
theorem witness_QuietStateIsEndOfRun :
    ∀ s ∈ [machine configuredBlock [] [] [], machine (faultedBlock .timeRange) [] [] [], machine openingBlock [] [] [],
        machine writingBlock [] [] []],
      s.host.encoderReads = [] ∧ s.host.requests = [] ∧ step s = .next s := by
  simp only [List.forall_mem_cons]
  exact ⟨⟨rfl, rfl, rfl⟩, ⟨rfl, rfl, rfl⟩, ⟨rfl, rfl, rfl⟩, ⟨rfl, rfl, rfl⟩, by simp⟩
/-- An INIT at its open, and a request with a transaction pending. -/
theorem witness_AnsweredRequestEnds :
    ∀ s ∈ [machine openingBlock [] [.ok] [.ack], machine writingBlock [] [] [.err false]],
      ControlInv s ∧ EmissionInv s ∧ s.host.encoderReads = [] ∧ s.block.op ≠ none ∧
        (s.block.opening = true → s.bus.opens ≠ [] ∧ s.bus.txns ≠ []) ∧
        s.block.queue.length + (if s.block.pending = none then 0 else 1) ≤ s.bus.txns.length := by
  have hq : ∀ s : State, s.params.legal → s.block.queue = [] → s.history = [] →
      (∀ t, s.block.pending = some t → Emittable s.params t) → EmissionInv s := fun s hp h1 h2 h3 =>
    ⟨hp, by simp [h1], h3, by simp [h2]⟩
  simp only [List.forall_mem_cons]
  refine ⟨⟨control_opening .., hq _ (legal_machine ..) rfl rfl (fun _ h => by cases h), rfl, by decide, by decide,
    by decide⟩, ⟨control_writing .., hq _ (legal_machine ..) rfl rfl ?_, rfl, by decide, by decide, by decide⟩, by simp⟩
  intro t h
  cases h
  exact .inr ⟨1#4, by decide, rfl, .inr ⟨7#4, rfl⟩⟩

/-! ### Reset -/

/-- The word that raises no fault, and the largest word, which does. -/
theorem witness_ResetLeavesBlockReadyForInitOnly :
    ∀ w ∈ [0x0000#16, 0xFFFF#16], (machine Block.reset [w] [] []).block = State.reset.block ∧
      (machine Block.reset [w] [] []).host.encoderReads = [] ∧
      (machine Block.reset [w] [] []).host.requests = w :: [] := fun _ _ => ⟨rfl, rfl, rfl⟩
theorem witness_LaterResetKeepsStaleDigits :
    ∃ s : State, s.params.legal ∧ s.block.fault = some .positionRange ∧ s.host.encoderReads = [] ∧
      s.host.requests = 0x0000#16 :: [] ∧ s.bus.opens = .ok :: [] ∧ s.bus.txns = .ack :: [] :=
  ⟨machine (faultedBlock .positionRange) [0x0000#16] [.ok] [.ack], legal_machine .., rfl, rfl, rfl, rfl, rfl⟩

/-! ### The display -/

/-- Shown, and not shown for each reason: no CONFIG yet, another `DEV.cfg`, the first position no digit is wired to. -/
theorem witness_DisplayKnownExactlyWhereStated :
    (shownSegments configured 3).isSome = true ∧ shownSegments configured 4 = none ∧
      shownSegments ((machine Block.reset [] [] []).setCfg 0x03#8) 3 = none ∧
      shownSegments (configured.setCfg 0x02#8) 3 = none := by decide

/-- A configured machine with a shown digit, its write of that position failing, the byte latched or not. -/
theorem witness_ResetAndFaultKeepDisplay :
    ∀ latched : Bool, ∃ s t, EmissionInv s ∧ step s = .next t ∧ s.block.fault = none ∧
      t.block.fault = some .busTransactionError ∧ shownPattern s 1 = some 0x77#8 ∧
      s.bus.txns = [.err latched] := by
  intro latched
  refine ⟨{ configured with block := writingBlock, bus := { opens := [], txns := [.err latched] } }, ?_⟩
  have he : EmissionInv { configured with block := writingBlock, bus := { opens := [], txns := [.err latched] } } := by
    refine ⟨legal_machine configuredBlock [] [] [], fun t h => absurd h (List.not_mem_nil), fun t h => ?_, fun t h => ?_⟩
    · cases h
      exact .inr ⟨1#4, Nat.le_of_ble_eq_true rfl, rfl, .inr ⟨7#4, rfl⟩⟩
    · simp only [configured, List.mem_cons, reduceCtorEq, false_or, List.not_mem_nil, or_false,
        Event.issue.injEq] at h
      exact h ▸ .inl (by decide)
  cases latched
  · exact ⟨_, he, rfl, rfl, rfl, by decide, rfl⟩
  · exact ⟨_, he, rfl, rfl, rfl, by decide, rfl⟩

end Sys2Proof.Tests
end

section
/-! SUPPORT. What a step does to each part of the block, the invariant of R22 along every step, and what follows from
it for every reachable state. -/

namespace Sys2Proof.Machine

/-! ## A delivery leaves the block, the history and the parameters -/
section
variable {x : Txn} {l : List TxnAnswer} {s u : State}

theorem deliver_block (h : deliver x (s.setTxnAnswers l) = .next u) : u.block = s.block := by
  rw [deliver_frame h]; rfl

theorem deliver_history (h : deliver x (s.setTxnAnswers l) = .next u) : u.history = s.history := by
  rw [deliver_frame h]; rfl

theorem deliver_params (h : deliver x (s.setTxnAnswers l) = .next u) : u.params = s.params := by
  rw [deliver_frame h]; rfl

theorem deliver_earlierConfig (h : deliver x (s.setTxnAnswers l) = .next u) : u.earlierConfig = s.earlierConfig := by
  rw [deliver_frame h]; rfl

end

/-! ## What no step writes -/

/-- The parameters (R6) and the model's own `earlierConfig` (log entry 21) are written by no step. -/
theorem step_params_earlierConfig {s t : State} (h : step s = .next t) :
    t.params = s.params ∧ t.earlierConfig = s.earlierConfig := by
  cases step_moves h with
  | ack _ _ _ _ _ _ _ hd | errLatched _ _ _ _ _ _ _ hd =>
    exact ⟨(deliver_params hd :), (deliver_earlierConfig hd :)⟩
  | _ => exact ⟨rfl, rfl⟩

/-! ## Each move keeps the invariant of R22 -/
section
variable {s t : State} (hi : ControlInv s)
include hi

/-- The invariant speaks of the block and the parameters only. -/
theorem ControlInv.of_block_eq (hb : t.block = s.block) (hp : t.params = s.params) : ControlInv t where
  laws := hb ▸ hi.laws
  init_opened := hb ▸ hi.init_opened
  idle_empty := hb ▸ hi.idle_empty
  queue_short := hb ▸ hi.queue_short
  legal := hp ▸ hi.legal

/-- Fault entry empties all that the other clauses speak of (R105). -/
theorem ControlInv.raiseFault (k : FaultCode) : ControlInv (raiseFault k s) where
  laws :=
    { configured_opened := hi.laws.configured_opened
      pending_busy := fun h => absurd rfl h
      opening_init := nofun
      fault_quiet := fun _ => ⟨rfl, rfl, rfl, rfl⟩
      digit_configured := nofun }
  init_opened := nofun
  idle_empty := fun _ => rfl
  queue_short := Nat.zero_le 4
  legal := hi.legal

theorem ControlInv.resultErr (x : Txn) : ControlInv (resultErr x s) :=
  (hi.raiseFault .busTransactionError).of_block_eq rfl rfl

theorem ControlInv.resultAck (x : Txn) : ControlInv (resultAck x s) where
  laws :=
    { hi.laws with
      pending_busy := fun h => absurd rfl h
      fault_quiet := fun h =>
        have ⟨hop, hq, _, ho⟩ := hi.laws.fault_quiet h
        ⟨hop, hq, rfl, ho⟩ }
  init_opened := hi.init_opened
  idle_empty := hi.idle_empty
  queue_short := hi.queue_short
  legal := hi.legal

theorem ControlInv.openOk (hf : s.block.fault = none) (hp : s.block.pending = none)
    (ho : s.block.opening = true) : ControlInv (openOk s) where
  laws :=
    { configured_opened := fun _ => rfl
      pending_busy := fun h => absurd hp h
      opening_init := nofun
      fault_quiet := fun h => absurd hf h
      digit_configured := hi.laws.digit_configured }
  init_opened := fun _ _ => rfl
  idle_empty := fun h => nomatch h.symm.trans (hi.laws.opening_init ho).1
  queue_short := Nat.le_of_ble_eq_true rfl
  legal := hi.legal

theorem ControlInv.issueStep {r : Request} {x : Txn} {rest : List Txn} (hf : s.block.fault = none)
    (ho : s.block.opening = false) (hr : s.block.op = some r) (hq : s.block.queue = x :: rest) :
    ControlInv (issueStep x rest s) where
  laws :=
    { hi.laws with
      pending_busy := fun _ => ⟨fun h => (nomatch h.symm.trans hr), ho⟩
      fault_quiet := fun h => absurd hf h }
  init_opened := hi.init_opened
  idle_empty := fun h => nomatch h.symm.trans hr
  queue_short := by
    have hlen := hi.queue_short
    rw [hq, List.length_cons] at hlen
    exact Nat.le_of_succ_le hlen
  legal := hi.legal

/-- A completed INIT has opened the bus, so `configured` is set on an opened block (R22 (i), R82). -/
theorem ControlInv.completeStep {r : Request} (hf : s.block.fault = none) (hp : s.block.pending = none)
    (ho : s.block.opening = false) (hr : s.block.op = some r) (hq : s.block.queue = []) :
    ControlInv (completeStep r s) where
  laws :=
    { configured_opened := fun h => by
        rcases Bool.or_eq_true_iff.1 h with hc | hinit
        · exact hi.laws.configured_opened hc
        · exact hi.init_opened (of_decide_eq_true hinit ▸ hr) ho
      pending_busy := fun h => absurd hp h
      opening_init := fun h => nomatch h.symm.trans ho
      fault_quiet := fun h => absurd hf h
      digit_configured := nofun }
  init_opened := nofun
  idle_empty := fun _ => hq
  queue_short := hi.queue_short
  legal := hi.legal

/-- INIT is accepted on a block that has not opened the bus (R22 (iii), R75). -/
theorem ControlInv.acceptInit (hf : s.block.fault = none) (hp : s.block.pending = none)
    (hk : s.block.opened = false) : ControlInv (openBus (logAccept .init s)) where
  laws :=
    { configured_opened := hi.laws.configured_opened
      pending_busy := fun h => absurd hp h
      opening_init := fun _ => ⟨rfl, hk⟩
      fault_quiet := fun h => absurd hf h
      digit_configured := fun _ h hn => absurd (Option.some.inj h).symm hn }
  init_opened := nofun
  idle_empty := nofun
  queue_short := hi.queue_short
  legal := hi.legal

/-- A digit request is accepted on a configured block, with at most a frame to issue (R18, R22 (v), R84). -/
theorem ControlInv.acceptDigits {r : Request} {l : List Txn} (hf : s.block.fault = none)
    (hp : s.block.pending = none) (ho : s.block.opening = false) (hc : s.block.configured = true)
    (hl : l.length ≤ 4) : ControlInv (enqueue l (logAccept r s)) where
  laws :=
    { configured_opened := hi.laws.configured_opened
      pending_busy := fun h => absurd hp h
      opening_init := fun h => nomatch h.symm.trans ho
      fault_quiet := fun h => absurd hf h
      digit_configured := fun _ _ _ => hc }
  init_opened := fun _ _ => hi.laws.configured_opened hc
  idle_empty := nofun
  queue_short := hl
  legal := hi.legal

end

/-- A frame under legal parameters has four transactions (R85, R89). -/
theorem frameTxns_length_of_legal {p : Params} (h : p.legal) (hour minute : Nat) :
    (frameTxns p.updateOrder hour minute).length = 4 := by
  obtain ⟨_, _, hperm⟩ := h
  rw [frameTxns_length, hperm.length_eq]
  rfl

/-- Every step keeps the invariant, move by move. -/
theorem ControlInv.step {s t : State} (hi : ControlInv s) (h : step s = .next t) : ControlInv t := by
  cases step_moves h with
  | encode => exact hi.of_block_eq rfl rfl
  | faulted | waitResult | waitOpen | idle => exact hi
  | ack _ _ x _ _ _ _ hd => exact (hi.of_block_eq (deliver_block hd) (deliver_params hd)).resultAck x
  | errLatched _ _ x _ _ _ _ hd =>
    exact (hi.of_block_eq (deliver_block hd) (deliver_params hd)).resultErr x
  | errUnchanged _ _ x l => exact (hi.of_block_eq (t := s.setTxnAnswers l) rfl rfl).resultErr x
  | openOk _ hf hp ho l => exact (hi.of_block_eq (t := s.setOpenAnswers l) rfl rfl).openOk hf hp ho
  | openErr => exact (hi.raiseFault _).of_block_eq rfl rfl
  | issue _ hf _ ho _ hr _ _ hq => exact hi.issueStep hf ho hr hq
  | complete _ hf hp ho _ hr hq => exact hi.completeStep hf hp ho hr hq
  | reserved | refuse => exact (hi.raiseFault _).of_block_eq rfl rfl
  | acceptInit _ hf hp _ _ _ l _ _ hk =>
    exact (hi.of_block_eq (t := s.setRequests l) rfl rfl).acceptInit hf hp hk
  | acceptDigits _ hf hp ho _ _ l _ _ _ _ _ hc hl =>
    refine (hi.of_block_eq (t := s.setRequests l) rfl rfl).acceptDigits hf hp ho hc ?_
    obtain ⟨_, _, _, _, rfl⟩ | ⟨_, _, _, rfl⟩ | ⟨_, _, _, _, rfl⟩ := hl
    · exact Nat.le_of_ble_eq_true rfl
    · exact Nat.le_of_ble_eq_true rfl
    · exact (frameTxns_length_of_legal hi.legal _ _).le

/-- Settles O42, move by move: each of the block's moves has a lemma that it keeps the invariant. -/
theorem stepKeepsControlInvariant : Obligations.StepKeepsControlInvariant := by
  unfold Obligations.StepKeepsControlInvariant
  exact fun _ _ hi h => hi.step h

/-! ## Reachable states -/

/-- The block as reset leaves it meets the invariant (R119). -/
theorem ControlInv.of_initial {s : State} (h : Initial s) : ControlInv s where
  laws := h.block ▸ ⟨nofun, fun h => absurd rfl h, nofun, fun h => absurd rfl h, nofun⟩
  init_opened := h.block ▸ nofun
  idle_empty := h.block ▸ fun _ => rfl
  queue_short := h.block ▸ Nat.zero_le 4
  legal := h.legal

theorem ControlInv.of_reachable {s : State} (h : Reachable s) : ControlInv s := by
  induction h with
  | initial h => exact .of_initial h
  | step _ hs ih => exact ih.step hs

/-- Settles O48: R22 is the first clause of the invariant that reset establishes and every step keeps. -/
theorem reachableStatesSatisfyR22 : Obligations.ReachableStatesSatisfyR22 := by
  unfold Obligations.ReachableStatesSatisfyR22
  intro s h
  obtain ⟨hconf, hpend, hopen, hfault, hdigit⟩ := (ControlInv.of_reachable h).laws
  exact ⟨hconf, hpend, hopen, hfault, hdigit⟩

/-! ## The history and what is pending -/

theorem outstanding_append (h more : List Event) : outstanding (h ++ more) = more.foldl busAfter (outstanding h) :=
  List.foldl_append

/-- Every step keeps the history strictly sequential: only an issue, with nothing pending, and the result of what is
pending change what is outstanding. -/
theorem BusTraceInv.step {s t : State} (hi : BusTraceInv s) (h : step s = .next t) : BusTraceInv t := by
  refine ⟨hi.control.step h, ?_⟩
  have htrace := hi.trace
  cases step_moves h with
  | encode | faulted | waitResult | waitOpen | idle => exact htrace
  | ack _ _ _ _ _ hp _ hd | errLatched _ _ _ _ _ hp _ hd =>
    simp [deliver_history hd, outstanding_append, htrace, hp, busAfter]
  | errUnchanged _ _ _ _ hp | openOk _ _ hp | openErr _ _ hp | issue _ _ hp | complete _ _ hp | reserved _ _ hp
  | refuse _ _ hp | acceptInit _ _ hp | acceptDigits _ _ hp =>
    simp [outstanding_append, htrace, hp, busAfter]

/-- Settles O44: the invariant of R22 by O42's lemma, the history event by event. -/
theorem stepKeepsBusSequential : Obligations.StepKeepsBusSequential := by
  unfold Obligations.StepKeepsBusSequential
  exact fun _ _ hi h => hi.step h

/-! ## What changes `S.opened`, `S.configured` and `S.op` -/

/-- `S.opened` stays, or the open's answer is ok (R14, R76). -/
theorem step_opened {s t : State} (h : step s = .next t) :
    t.block.opened = s.block.opened ∨
      ∃ rest, s.block.opening = true ∧ s.bus.opens = .ok :: rest ∧ t = openOk (s.setOpenAnswers rest) := by
  cases step_moves h with
  | openOk _ _ _ ho rest hb => exact .inr ⟨rest, ho, hb, rfl⟩
  | ack _ _ _ _ _ _ _ hd | errLatched _ _ _ _ _ _ _ hd => exact .inl (congrArg Block.opened (deliver_block hd) :)
  | _ => exact .inl rfl

/-- Settles O40: `openOk` is the one move that writes `S.opened`. -/
theorem openedOnlyBySuccessfulOpen : Obligations.OpenedOnlyBySuccessfulOpen := by
  unfold Obligations.OpenedOnlyBySuccessfulOpen
  refine ⟨rfl, fun s t h => ?_⟩
  obtain heq | ⟨rest, ho, hb, rfl⟩ := step_opened h
  · exact ⟨fun hs => heq.trans hs, fun hs ht => nomatch hs.symm.trans (heq.symm.trans ht)⟩
  · exact ⟨fun _ => rfl, fun _ _ => ⟨ho, fun hi => (hi.laws.opening_init ho).1, rfl, rest, hb, rfl⟩⟩

/-- `S.configured` stays, or a request completes (R15, R82). -/
theorem step_configured {s t : State} (h : step s = .next t) :
    t.block.configured = s.block.configured ∨
      ∃ r, s.block.op = some r ∧ requestDone s.block = true ∧ t = completeStep r s := by
  cases step_moves h with
  | complete _ _ hp ho r hr hq => exact .inr ⟨r, hr, by simp [requestDone, hp, ho, hr, hq], rfl⟩
  | ack _ _ _ _ _ _ _ hd | errLatched _ _ _ _ _ _ _ hd => exact .inl (congrArg Block.configured (deliver_block hd) :)
  | _ => exact .inl rfl

/-- An instruction of the request port is a request. -/
theorem request_of_space {i : Instr} (h : i.space = .request) : ∃ r : Request, i = r.instr := by
  cases i with
  | init => exact ⟨.init, rfl⟩
  | writeDigit pos val => exact ⟨.writeDigit pos val, rfl⟩
  | blankDigit pos => exact ⟨.blankDigit pos, rfl⟩
  | update hour minute => exact ⟨.update hour minute, rfl⟩
  | encode | config | writeIo | setOcL | setOcH | readIo => cases h

/-- A request whose first failing check is `k` is refused with `k` (R74, R112). -/
theorem exec_request_refused {s : State} {r : Request} {k : FaultCode} (h : ready s.block = true)
    (hk : acceptFault r s = some k) : exec r.instr s = .next (refuseRequest r.word k s) := by
  cases r <;> exact takeRequest_refused h hk

/-- On a block that is not configured the first failing check of a digit request is the sequence check (R84, R106). -/
theorem acceptFault_unconfigured {s : State} {r : Request} (hn : r ≠ .init) (hc : s.block.configured = false) :
    acceptFault r s = some .notConfigured := by
  cases r with
  | init => exact absurd rfl hn
  | writeDigit => simp [acceptFault_writeDigit, hc]
  | blankDigit => simp [acceptFault_blankDigit, hc]
  | update => simp [acceptFault_update, hc]

/-- Settles O41: `completeStep` is the one move that writes `S.configured`, and without it the sequence check refuses
every digit request. -/
theorem configuredOnlyByInitCompletion : Obligations.ConfiguredOnlyByInitCompletion := by
  unfold Obligations.ConfiguredOnlyByInitCompletion
  refine ⟨rfl, fun s t h => ?_, fun s i hi hn hr hc => ?_⟩
  · obtain heq | ⟨r, hop, hd, rfl⟩ := step_configured h
    · exact ⟨fun hs => heq.trans hs, fun hs ht => nomatch hs.symm.trans (heq.symm.trans ht)⟩
    · refine ⟨fun hs => by simp [hs], fun hs ht => ?_⟩
      obtain rfl : r = .init := by simpa [hs] using ht
      exact ⟨hop, hd, rfl⟩
  · obtain ⟨r, rfl⟩ := request_of_space hi
    have hf : s.block.fault = none := ((ready_iff _).1 hr).2
    rw [exec_request_refused hr (acceptFault_unconfigured (mt (congrArg Request.instr) hn) hc)]
    simp [refuseRequest, raiseFault, State.log, Request.word, hf]

/-- A fault entry that changes `S.op` has dropped a request (R105). -/
theorem op_dropped {s t : State} {k : FaultCode} (ht : t.block.op = none) (hne : s.block.op ≠ t.block.op)
    (hf : s.block.fault = none) (hk : t.block.fault = s.block.fault.or (some k)) :
    ∃ r k, s.block.op = some r ∧ t.block.op = none ∧ s.block.fault = none ∧ t.block.fault = some k := by
  obtain ⟨r, hr⟩ := Option.ne_none_iff_exists'.1 (ht ▸ hne)
  exact ⟨r, k, hr, ht, hf, by rw [hk, hf]; rfl⟩

/-- Settles O23, move by move: an acceptance, the completion, or a fault. -/
theorem requestChangesOnlyByAcceptDoneFault : Obligations.RequestChangesOnlyByAcceptDoneFault := by
  unfold Obligations.RequestChangesOnlyByAcceptDoneFault
  intro s t h hne
  cases step_moves h with
  | acceptInit _ _ _ _ hr w rest hq hw => exact .inl ⟨.init, w, rest, hr, rfl, hq, hw, rfl⟩
  | acceptDigits _ _ _ _ hr w rest hq r hw => exact .inl ⟨r, w, rest, hr, rfl, hq, hw, rfl⟩
  | complete _ hf hp ho r hr hq => exact .inr (.inl ⟨r, hr, rfl, hq, hp, ho, hf, rfl⟩)
  | errLatched _ hf _ _ _ _ _ hd =>
    have hfault := congrArg (·.fault.or (some .busTransactionError)) (deliver_block hd)
    exact .inr (.inr (op_dropped rfl hne hf hfault))
  | errUnchanged _ hf | openErr _ hf => exact .inr (.inr (op_dropped rfl hne hf rfl))
  | ack _ _ _ _ _ _ _ hd => exact absurd (congrArg Block.op (deliver_block hd :)).symm hne
  | reserved _ _ _ _ hr | refuse _ _ _ _ hr => exact absurd hr hne
  | encode | faulted | waitResult | waitOpen | idle | openOk | issue => exact absurd rfl hne

end Sys2Proof.Machine
end

section
/-! SUPPORT. Noninterference: a step reads the block, the parameters and the two sides' supplies, so states that differ
in what it never reads take the same step. Said once for any such difference, then for the history (R31) and for the
expander's registers (R33). -/

namespace Sys2Proof.Machine

/-! ## Differences that no step reads -/

/-- `R` relates states that agree on all a step reads, and is kept by every way a step writes. -/
structure Unread (R : State → State → Prop) : Prop where
  block_eq : ∀ {s t}, R s t → t.block = s.block
  params_eq : ∀ {s t}, R s t → t.params = s.params
  host_eq : ∀ {s t}, R s t → t.host = s.host
  bus_eq : ∀ {s t}, R s t → t.bus = s.bus
  block : ∀ {s t}, R s t → ∀ f : Block → Block, R { s with block := f s.block } { t with block := f t.block }
  host : ∀ {s t}, R s t → ∀ f : HostPorts → HostPorts, R { s with host := f s.host } { t with host := f t.host }
  bus : ∀ {s t}, R s t → ∀ f : BusAnswers → BusAnswers, R { s with bus := f s.bus } { t with bus := f t.bus }
  dev : ∀ {s t}, R s t → ∀ f : Expander → Expander, R { s with dev := f s.dev } { t with dev := f t.dev }
  log : ∀ {s t}, R s t → ∀ e, R (s.log e) (t.log e)

/-- The same kind of outcome, next states being related. -/
inductive Alike (R : State → State → Prop) : Outcome → Outcome → Prop where
  | next {s t : State} (h : R s t) : Alike R (.next s) (.next t)
  | fault (x : Fault) : Alike R (.fault x) (.fault x)
  | refused (x : Refusal) : Alike R (.refused x) (.refused x)

theorem Alike.andThen {R : State → State → Prop} {f : State → State} {o o' : Outcome} (h : Alike R o o')
    (hf : ∀ {s t}, R s t → R (f s) (f t)) : Alike R (o.andThen f) (o'.andThen f) := by
  cases h with
  | next h => exact .next (hf h)
  | fault x => exact .fault x
  | refused x => exact .refused x

/-- Beside a next state stands a related next state. -/
theorem Alike.of_next {R : State → State → Prop} {s : State} {o : Outcome} (h : Alike R (.next s) o) :
    ∃ t, o = .next t ∧ R s t := by
  cases h with
  | next h => exact ⟨_, rfl, h⟩

theorem Alike.next_of_right {R : State → State → Prop} {t : State} {o : Outcome} (h : Alike R o (.next t)) :
    ∃ s, o = .next s ∧ R s t := by
  cases h with
  | next h => exact ⟨_, rfl, h⟩

/-! ## The operations keep such a difference -/
section
variable {R : State → State → Prop} (hR : Unread R) {s t : State}
include hR

theorem Unread.raiseFault (k : FaultCode) (h : R s t) : R (raiseFault k s) (raiseFault k t) :=
  hR.block h fun b =>
    { b with fault := b.fault.or (some k), op := none, queue := [], pending := none, opening := false }

theorem Unread.refuseRequest (w : Word) (k : FaultCode) (h : R s t) :
    R (refuseRequest w k s) (refuseRequest w k t) := hR.raiseFault k (hR.log h _)

theorem Unread.logAccept (r : Request) (h : R s t) : R (logAccept r s) (logAccept r t) :=
  hR.log (hR.block h fun b => { b with op := some r }) _

theorem Unread.enqueue (l : List Txn) (h : R s t) : R (enqueue l s) (enqueue l t) :=
  hR.block h fun b => { b with queue := l }

theorem Unread.openBus (h : R s t) : R (openBus s) (openBus t) := by
  have hid : t.params.busId = s.params.busId := congrArg Params.busId (hR.params_eq h)
  unfold Machine.openBus
  rw [hid]
  exact hR.log (hR.block h fun b => { b with opening := true }) _

theorem Unread.issueStep (x : Txn) (rest : List Txn) (h : R s t) : R (issueStep x rest s) (issueStep x rest t) :=
  hR.log (hR.block h fun b => { b with pending := some x, queue := rest }) _

theorem Unread.resultAck (x : Txn) (h : R s t) : R (resultAck x s) (resultAck x t) :=
  hR.log (hR.block h fun b => { b with pending := none }) _

theorem Unread.resultErr (x : Txn) (h : R s t) : R (resultErr x s) (resultErr x t) :=
  hR.raiseFault _ (hR.log h _)

theorem Unread.openOk (h : R s t) : R (openOk s) (openOk t) :=
  hR.enqueue _ (hR.log (hR.block h fun b => { b with opening := false, opened := true }) _)

theorem Unread.openErr (h : R s t) : R (openErr s) (openErr t) :=
  hR.raiseFault _ (hR.log (hR.block h fun b => { b with opening := false }) _)

theorem Unread.completeStep (r : Request) (h : R s t) : R (completeStep r s) (completeStep r t) :=
  hR.log (hR.block h fun b => { b with configured := b.configured || decide (r = .init), op := none }) _

theorem Unread.setTxnAnswers (l : List TxnAnswer) (h : R s t) : R (s.setTxnAnswers l) (t.setTxnAnswers l) :=
  hR.bus h fun b => { b with txns := l }

theorem Unread.setOpenAnswers (l : List OpenAnswer) (h : R s t) : R (s.setOpenAnswers l) (t.setOpenAnswers l) :=
  hR.bus h fun b => { b with opens := l }

theorem Unread.setRequests (l : List Word) (h : R s t) : R (s.setRequests l) (t.setRequests l) :=
  hR.host h fun p => { p with requests := l }

theorem Unread.setEncoderReads (l : List Nibble) (h : R s t) : R (s.setEncoderReads l) (t.setEncoderReads l) :=
  hR.host h fun p => { p with encoderReads := l }

/-! ## So does every step -/

theorem Unread.deliver (x : Txn) (h : R s t) : Alike R (deliver x s) (deliver x t) := by
  rw [deliver_eq, deliver_eq]
  by_cases hc : x.cmd = configCommandCode
  · rw [if_pos hc, if_pos hc]
    exact .next (hR.dev h fun d => { d with cfg := x.data })
  · rw [if_neg hc, if_neg hc]
    by_cases hp : x.cmd.extractLsb' 4 4 = 0x3#4
    · rw [if_pos hp, if_pos hp]
      exact .next (hR.dev h fun d => d.write (x.cmd.extractLsb' 0 4) x.data)
    · rw [if_neg hp, if_neg hp]
      split_ifs <;> exact .refused _

theorem Unread.resultStep (x : Txn) (h : R s t) : Alike R (resultStep x s) (resultStep x t) := by
  unfold Machine.resultStep
  rw [hR.bus_eq h]
  split
  · exact .next h
  · exact (hR.deliver x (hR.setTxnAnswers _ h)).andThen (hR.resultAck x)
  · exact (hR.deliver x (hR.setTxnAnswers _ h)).andThen (hR.resultErr x)
  · exact .next (hR.resultErr x (hR.setTxnAnswers _ h))

theorem Unread.openResultStep (h : R s t) : R (openResultStep s) (openResultStep t) := by
  unfold Machine.openResultStep
  rw [hR.bus_eq h]
  split
  · exact h
  · exact hR.openOk (hR.setOpenAnswers _ h)
  · exact hR.openErr (hR.setOpenAnswers _ h)

theorem Unread.takeRequest {r : Request} {f g : State → State} (h : R s t)
    (hfg : R (f (Machine.logAccept r s)) (g (Machine.logAccept r t))) :
    Alike R (takeRequest r f s) (takeRequest r g t) := by
  unfold Machine.takeRequest acceptFault
  rw [hR.block_eq h, hR.params_eq h]
  split
  · split
    · exact .next (hR.refuseRequest _ _ h)
    · exact .next hfg
  · exact .next h

theorem Unread.exec_request (r : Request) (h : R s t) : Alike R (exec r.instr s) (exec r.instr t) := by
  cases r with
  | init => exact hR.takeRequest h (hR.openBus (hR.logAccept _ h))
  | writeDigit | blankDigit => exact hR.takeRequest h (hR.enqueue _ (hR.logAccept _ h))
  | update hour minute =>
    refine hR.takeRequest h ?_
    rw [hR.params_eq h]
    exact hR.enqueue _ (hR.logAccept _ h)

theorem Unread.acceptStep (h : R s t) : Alike R (acceptStep s) (acceptStep t) := by
  unfold Machine.acceptStep
  rw [hR.host_eq h]
  split
  · exact .next h
  · split
    next i hw =>
      obtain ⟨r, rfl⟩ := decodeRequest_request hw
      exact hR.exec_request r (hR.setRequests _ h)
    next => exact .next (hR.refuseRequest _ _ (hR.setRequests _ h))

theorem Unread.blockStep (h : R s t) : Alike R (blockStep s) (blockStep t) := by
  unfold Machine.blockStep
  rw [hR.block_eq h]
  split
  · exact .next h
  · split
    · exact hR.resultStep _ h
    · split
      · exact .next (hR.openResultStep h)
      · split
        · exact hR.acceptStep h
        · exact .next (hR.issueStep _ _ h)
        · exact .next (hR.completeStep _ h)

/-- Related states take the same step. -/
theorem Unread.step (h : R s t) : Alike R (step s) (step t) := by
  cases he : s.host.encoderReads with
  | nil =>
    rw [step_block he, step_block (hR.host_eq h ▸ he)]
    exact hR.blockStep h
  | cons v rest =>
    rw [step_encode he, step_encode (hR.host_eq h ▸ he)]
    exact .next (hR.host h fun p => { p with encoderReads := rest, pattern := some (enc v) })

end

/-! ## The history -/

/-- `t` is `s` with the events `h` before its own. -/
def Preceded (h : List Event) (s t : State) : Prop := t = { s with history := h ++ s.history }

theorem unread_preceded (h : List Event) : Unread (Preceded h) where
  block_eq := by rintro s _ rfl; rfl
  params_eq := by rintro s _ rfl; rfl
  host_eq := by rintro s _ rfl; rfl
  bus_eq := by rintro s _ rfl; rfl
  block := by rintro s _ rfl f; rfl
  host := by rintro s _ rfl f; rfl
  bus := by rintro s _ rfl f; rfl
  dev := by rintro s _ rfl f; rfl
  log := by rintro s _ rfl e; simp [Preceded, State.log]

theorem preceded_empty (s : State) (h : List Event) :
    Preceded h { s with history := [] } { s with history := h } := by
  simp [Preceded]

/-- Settles O51: the events a step adds are those it records from an empty history, whatever stands before them. -/
theorem historyOnlyGrowsUnread : Obligations.HistoryOnlyGrowsUnread := by
  unfold Obligations.HistoryOnlyGrowsUnread
  intro s t hstep
  obtain ⟨hparams, hearlier⟩ := step_params_earlierConfig hstep
  have hs := (unread_preceded s.history).step (preceded_empty s s.history)
  obtain ⟨t₀, ht₀, rfl⟩ := (hstep ▸ hs).next_of_right
  refine ⟨hparams, hearlier, t₀.history, rfl, fun h => ?_⟩
  have hh := (unread_preceded h).step (preceded_empty s h)
  obtain ⟨_, hnext, rfl⟩ := (ht₀ ▸ hh).of_next
  exact hnext

/-! ## The expander's registers -/

/-- `t` is `s` but for what the expander holds. -/
def SameButDev (s t : State) : Prop := ∃ d, t = { s with dev := d }

theorem unread_sameButDev : Unread SameButDev where
  block_eq := by rintro s _ ⟨d, rfl⟩; rfl
  params_eq := by rintro s _ ⟨d, rfl⟩; rfl
  host_eq := by rintro s _ ⟨d, rfl⟩; rfl
  bus_eq := by rintro s _ ⟨d, rfl⟩; rfl
  block := by rintro s _ ⟨d, rfl⟩ f; exact ⟨d, rfl⟩
  host := by rintro s _ ⟨d, rfl⟩ f; exact ⟨d, rfl⟩
  bus := by rintro s _ ⟨d, rfl⟩ f; exact ⟨d, rfl⟩
  dev := by rintro s _ ⟨d, rfl⟩ f; exact ⟨f d, rfl⟩
  log := by rintro s _ ⟨d, rfl⟩ e; exact ⟨d, rfl⟩

/-- Outcomes alike but for the registers are equal once the registers are. -/
theorem Alike.andThen_setDev {o o' : Outcome} (h : Alike SameButDev o o') (e : Expander) :
    o'.andThen (fun t => { t with dev := e }) = o.andThen fun t => { t with dev := e } := by
  cases h with
  | next h =>
    obtain ⟨d, rfl⟩ := h
    rfl
  | fault => rfl
  | refused => rfl

/-- Settles O50: a difference in the registers is one that no step reads. -/
theorem blockIgnoresExpanderContents : Obligations.BlockIgnoresExpanderContents := by
  unfold Obligations.BlockIgnoresExpanderContents
  intro s d
  exact (unread_sameButDev.step ⟨d, rfl⟩).andThen_setDev s.dev

end Sys2Proof.Machine
end

section
/-! SUPPORT. The registers and the history (R43 (b)): what one event does to the latest outcome of a command, and that
every step keeps the registers in agreement with the latest acknowledged transactions. -/

namespace Sys2Proof.Machine

/-! ## The latest outcome of a command -/

@[simp] theorem lastAcked_result (c d : Byte) (x : Txn) (r : TxnOutcome) (older : List Event) :
    lastAcked c d (.result x r :: older) =
      if x.cmd = c then decide (r = .ack) && decide (x.data = d) else lastAcked c d older := rfl

theorem lastAcked_of_not_result {e : Event} (he : ∀ x r, e ≠ .result x r) (c d : Byte) (older : List Event) :
    lastAcked c d (e :: older) = lastAcked c d older := by
  cases e with
  | result x r => exact absurd rfl (he x r)
  | accept | refuse | busOpen | openResult | issue | done => rfl

/-! ## Each event keeps the registers in agreement -/
section
variable {s : State} (hi : DevMatchesHistory s)
include hi

/-- An event that is no transaction's result says nothing of the registers. -/
theorem DevMatchesHistory.log (e : Event) (he : ∀ x r, e ≠ .result x r) : DevMatchesHistory (s.log e) := by
  intro c d h
  rw [log_history, List.reverse_concat, lastAcked_of_not_result he] at h
  exact hi c d h

/-- A result speaks of its transaction's command only: an acknowledged one asks for its byte there, a failed one for
nothing, and every other command's latest outcome stays what it was. -/
theorem DevMatchesHistory.result {t : State} {x : Txn} {r : TxnOutcome}
    (hh : t.history = s.history ++ [.result x r])
    (hother : ∀ c, c ≠ x.cmd → t.dev.byteAt c = s.dev.byteAt c)
    (hown : r = .ack → t.dev.byteAt x.cmd = some x.data) : DevMatchesHistory t := by
  intro c d h
  rw [hh, List.reverse_concat, lastAcked_result] at h
  by_cases hc : x.cmd = c
  · rw [if_pos hc, Bool.and_eq_true, decide_eq_true_eq, decide_eq_true_eq] at h
    obtain ⟨hack, rfl⟩ := h
    exact hc ▸ hown hack
  · rw [if_neg hc] at h
    exact (hother c (Ne.symm hc)).trans (hi c d h)

end

/-- Every step keeps the agreement: the answers to a transaction are the moves that record a result, and a delivery
writes the byte at the transaction's own command and nowhere else (R93). -/
theorem DevMatchesHistory.step {s t : State} (hi : DevMatchesHistory s) (h : step s = .next t) :
    DevMatchesHistory t := by
  cases step_moves h with
  | encode | faulted | waitResult | waitOpen | idle => exact hi
  | ack _ _ x _ _ _ _ hd =>
    exact hi.result (by rw [resultAck_history, deliver_history hd])
      (fun c hc => (deliver_byteAt hd c).trans (if_neg hc)) fun _ => (deliver_byteAt hd x.cmd).trans (if_pos rfl)
  | errLatched _ _ x _ _ _ _ hd =>
    exact hi.result (r := .err) (by rw [resultErr_history, deliver_history hd])
      (fun c hc => (deliver_byteAt hd c).trans (if_neg hc)) nofun
  | errUnchanged _ _ x => exact hi.result (r := .err) (resultErr_history _ x) (fun _ _ => rfl) nofun
  | openOk => exact hi.log (.openResult .ok) nofun
  | openErr => exact hi.log (.openResult .err) nofun
  | issue _ _ _ _ _ _ x => exact hi.log (.issue x) nofun
  | complete _ _ _ _ r => exact hi.log (.done r) nofun
  | reserved _ _ _ _ _ w => exact hi.log (.refuse w .reservedRequest) nofun
  | refuse _ _ _ _ _ _ _ _ r _ k => exact hi.log (.refuse r.word k) nofun
  | acceptInit =>
    exact (hi.log (.accept (Request.word .init)) nofun).log (.busOpen s.params.busId) nofun
  | acceptDigits _ _ _ _ _ _ _ _ r => exact hi.log (.accept r.word) nofun

/-- Settles O45, move by move: a result is recorded with what the expander then holds at its command, and no other
event speaks of the registers. -/
theorem stepKeepsRegistersMatchHistory : Obligations.StepKeepsRegistersMatchHistory := by
  unfold Obligations.StepKeepsRegistersMatchHistory
  exact fun _ _ hi h => hi.step h

end Sys2Proof.Machine
end

section
/-! SUPPORT. The encodings of spec/30_encoding.md: which fields make a word the word of each row, from which both
directions between decoder and encoder follow; the masks of R65 and the command bytes of R57; the decoder in a step. -/

namespace Sys2Proof.Machine

/-! ## Words and their fields -/

/-- A field as a number (R8). -/
theorem field_toNat (w : Word) (lo len : Nat) : (field w lo len).toNat = w.toNat / 2 ^ lo % 2 ^ len := by
  simp [field, Nat.shiftRight_eq_div_pow]

/-- A field has a value exactly when the word's digits there do. -/
theorem field_eq_iff {w : Word} {lo len : Nat} {x : BitVec len} :
    field w lo len = x ↔ w.toNat / 2 ^ lo % 2 ^ len = x.toNat := by
  rw [← BitVec.toNat_inj, field_toNat]

/-- Parts of a word that do not overlap add up. -/
theorem toNat_or_of_lt {x y : Word} (n : Nat) (hx : x.toNat % 2 ^ n = 0) (hy : y.toNat < 2 ^ n) :
    (x ||| y).toNat = x.toNat + y.toNat := by
  obtain ⟨k, hk⟩ := Nat.dvd_of_mod_eq_zero hx
  rw [BitVec.toNat_or, hk, Nat.two_pow_add_eq_or_of_lt hy]

/-- A nibble moved to bits 11:8. -/
theorem toNat_nibble_shift (p : Nibble) : ((p.setWidth 16 : Word) <<< 8).toNat = p.toNat * 0x100 := by
  have := p.isLt
  simp only [BitVec.toNat_shiftLeft, BitVec.toNat_setWidth, Nat.shiftLeft_eq]
  omega

/-- The word of WRITE_DIGIT as a number (R62). -/
theorem writeDigit_word_toNat (pos val : Nibble) :
    (encode (.writeDigit pos val)).toNat = 0x4000 + pos.toNat * 0x100 + val.toNat := by
  have hp := pos.isLt
  have hv := val.isLt
  have hhigh : (0x4000#16 ||| (pos.setWidth 16 : Word) <<< 8).toNat = 0x4000 + pos.toNat * 0x100 := by
    rw [toNat_or_of_lt 12 rfl (by rw [toNat_nibble_shift]; omega), toNat_nibble_shift]
    rfl
  have hlow : (val.setWidth 16 : Word).toNat = val.toNat := by
    simp only [BitVec.toNat_setWidth]
    omega
  rw [encode, toNat_or_of_lt 8 (by omega) (by omega), hhigh, hlow]

/-- The word of BLANK_DIGIT as a number (R63). -/
theorem blankDigit_word_toNat (pos : Nibble) : (encode (.blankDigit pos)).toNat = 0x8000 + pos.toNat * 0x100 := by
  have hp := pos.isLt
  rw [encode, toNat_or_of_lt 12 rfl (by rw [toNat_nibble_shift]; omega), toNat_nibble_shift]
  rfl

/-- The word of UPDATE as a number (R64). -/
theorem update_word_toNat (hour : BitVec 5) (minute : BitVec 6) :
    (encode (.update hour minute)).toNat = 0xC000 + hour.toNat * 0x40 + minute.toNat := by
  have hh := hour.isLt
  have hm := minute.isLt
  have hshift : ((hour.setWidth 16 : Word) <<< 6).toNat = hour.toNat * 0x40 := by
    simp only [BitVec.toNat_shiftLeft, BitVec.toNat_setWidth, Nat.shiftLeft_eq]
    omega
  have hhigh : (0xC000#16 ||| (hour.setWidth 16 : Word) <<< 6).toNat = 0xC000 + hour.toNat * 0x40 := by
    rw [toNat_or_of_lt 11 rfl (by omega), hshift]
    rfl
  have hlow : (minute.setWidth 16 : Word).toNat = minute.toNat := by
    simp only [BitVec.toNat_setWidth]
    omega
  rw [encode, toNat_or_of_lt 6 (by omega) (by omega), hhigh, hlow]

/-! ## The word of each row, read off its fields -/

theorem init_word_iff {w : Word} : encode .init = w ↔ field w 14 2 = 0b00#2 ∧ field w 0 14 = 0#14 := by
  have := w.isLt
  rw [← BitVec.toNat_inj]
  simp only [field_eq_iff, encode, BitVec.toNat_ofNat]
  omega

theorem writeDigit_word_iff {w : Word} {pos val : Nibble} :
    encode (.writeDigit pos val) = w ↔ field w 14 2 = 0b01#2 ∧ field w 12 2 = 0#2 ∧ field w 4 4 = 0#4 ∧
      field w 8 4 = pos ∧ field w 0 4 = val := by
  have := w.isLt
  have := pos.isLt
  have := val.isLt
  rw [← BitVec.toNat_inj]
  simp only [writeDigit_word_toNat, field_eq_iff, BitVec.toNat_ofNat]
  omega

theorem blankDigit_word_iff {w : Word} {pos : Nibble} :
    encode (.blankDigit pos) = w ↔ field w 14 2 = 0b10#2 ∧ field w 12 2 = 0#2 ∧ field w 0 8 = 0#8 ∧
      field w 8 4 = pos := by
  have := w.isLt
  have := pos.isLt
  rw [← BitVec.toNat_inj]
  simp only [blankDigit_word_toNat, field_eq_iff, BitVec.toNat_ofNat]
  omega

theorem update_word_iff {w : Word} {hour : BitVec 5} {minute : BitVec 6} :
    encode (.update hour minute) = w ↔ field w 14 2 = 0b11#2 ∧ field w 11 3 = 0#3 ∧
      field w 6 5 = hour ∧ field w 0 6 = minute := by
  have := w.isLt
  have := hour.isLt
  have := minute.isLt
  rw [← BitVec.toNat_inj]
  simp only [update_word_toNat, field_eq_iff, BitVec.toNat_ofNat]
  omega

theorem encode_word_iff {w : Word} {v : Nat} (hv : v < 16) :
    encode (.encode v) = w ↔ field w 4 12 = 0#12 ∧ (field w 0 4).toNat = v := by
  have := w.isLt
  rw [← BitVec.toNat_inj]
  simp only [field_eq_iff, field_toNat, encode, BitVec.toNat_ofNat]
  omega

/-- A transaction word is its command byte and its data byte (R48). -/
theorem append_eq_word_iff {c d : Byte} {w : Word} : c ++ d = w ↔ wordCmd w = c ∧ wordData w = d := by
  constructor
  · rintro rfl
    exact ⟨wordCmd_word ⟨c, d⟩, wordData_word ⟨c, d⟩⟩
  · rintro ⟨rfl, rfl⟩
    have := w.isLt
    apply BitVec.eq_of_toNat_eq
    rw [BitVec.toNat_append, Nat.shiftLeft_eq, Nat.mul_comm, ← Nat.two_pow_add_eq_or_of_lt (wordData w).isLt,
      wordCmd, wordData, field_toNat, field_toNat]
    omega

/-- A command byte is `WRITE_IO_BASE | p` exactly when its halves are 3 and `p` (R49, R53). -/
theorem eq_writeIoCommand_iff {c : Byte} {p : Nibble} :
    c = writeIoCommand p ↔ c.extractLsb' 4 4 = 0x3#4 ∧ c.extractLsb' 0 4 = p := by
  constructor
  · rintro rfl
    exact ⟨writeIoCommand_high p, writeIoCommand_low p⟩
  · rintro ⟨hi, lo⟩
    exact command_split (hi.trans (writeIoCommand_high p).symm) (lo.trans (writeIoCommand_low p).symm)

/-! ## Decoding against encoding -/

theorem decodeRequest_ok {w : Word} {i : Instr} (h : decodeRequest w = .ok i) :
    i.space = .request ∧ i.WellFormed ∧ encode i = w := by
  unfold decodeRequest at h
  split_ifs at h with hinit hres hwrite hres hblank hres hres <;> cases h
  · exact ⟨rfl, rfl, init_word_iff.2 ⟨hinit, hres⟩⟩
  · exact ⟨rfl, rfl, writeDigit_word_iff.2 ⟨hwrite, hres.1, hres.2, rfl, rfl⟩⟩
  · exact ⟨rfl, rfl, blankDigit_word_iff.2 ⟨hblank, hres.1, hres.2, rfl⟩⟩
  · have hlast : ∀ op : BitVec 2, op ≠ 0b00#2 → op ≠ 0b01#2 → op ≠ 0b10#2 → op = 0b11#2 := by decide
    exact ⟨rfl, rfl, update_word_iff.2 ⟨hlast _ hinit hwrite hblank, hres, rfl, rfl⟩⟩

theorem decodeTransaction_ok {w : Word} {i : Instr} (h : decodeTransaction w = .ok i) :
    i.space = .bus ∧ i.WellFormed ∧ encode i = w := by
  unfold decodeTransaction at h
  split_ifs at h with hcmd hhigh hcmd hcmd hcmd <;> cases h
  · exact ⟨rfl, rfl, append_eq_word_iff.2 ⟨hcmd, rfl⟩⟩
  · have hcmd := eq_writeIoCommand_iff.2 ⟨(field_high w).symm.trans hhigh, (field_low w).symm⟩
    exact ⟨rfl, rfl, append_eq_word_iff.2 ⟨hcmd, rfl⟩⟩
  · exact ⟨rfl, rfl, append_eq_word_iff.2 ⟨hcmd, rfl⟩⟩
  · exact ⟨rfl, rfl, append_eq_word_iff.2 ⟨hcmd, rfl⟩⟩
  · exact ⟨rfl, rfl, append_eq_word_iff.2 ⟨hcmd, rfl⟩⟩

theorem decodeEncoderPort_ok {w : Word} {i : Instr} (h : decodeEncoderPort w = .ok i) :
    i.space = .encoderPort ∧ i.WellFormed ∧ encode i = w := by
  unfold decodeEncoderPort at h
  split_ifs at h with hres
  cases h
  have hv : (field w 0 4).toNat < 16 := (field w 0 4).isLt
  exact ⟨rfl, decide_eq_true hv, (encode_word_iff hv).2 ⟨hres, rfl⟩⟩

/-- What a transaction is decoded to, read off its command byte (R49, R51, R53, R55 to R57). -/
theorem decodeTransaction_word (t : Txn) :
    decodeTransaction t.word =
      if t.cmd = configCommandCode then .ok (.config t.data)
      else if t.cmd.extractLsb' 4 4 = 0x3#4 then .ok (.writeIo (t.cmd.extractLsb' 0 4) t.data)
      else if t.cmd = cmdSetOcL then .ok (.setOcL t.data)
      else if t.cmd = cmdSetOcH then .ok (.setOcH t.data)
      else if t.cmd = cmdReadIo then .ok (.readIo t.data)
      else .error (.unlistedCommand t.cmd) := by
  simp only [decodeTransaction, field_high, field_low, wordCmd_word, wordData_word]

/-- Every row's fields send its word down the row's own branch of the decoder. -/
theorem decode_encode {i : Instr} (hwf : i.WellFormed) : decode i.space (encode i) = .ok i := by
  cases i with
  | init => rfl
  | writeDigit pos val =>
    obtain ⟨hop, hres, hres', hpos, hval⟩ := writeDigit_word_iff.1 (rfl : encode (.writeDigit pos val) = _)
    simp [decode, Instr.space, decodeRequest, hop, hres, hres', hpos, hval]
  | blankDigit pos =>
    obtain ⟨hop, hres, hres', hpos⟩ := blankDigit_word_iff.1 (rfl : encode (.blankDigit pos) = _)
    simp [decode, Instr.space, decodeRequest, hop, hres, hres', hpos]
  | update hour minute =>
    obtain ⟨hop, hres, hhour, hminute⟩ := update_word_iff.1 (rfl : encode (.update hour minute) = _)
    simp [decode, Instr.space, decodeRequest, hop, hres, hhour, hminute]
  | encode v =>
    have hv : v < 16 := of_decide_eq_true hwf
    obtain ⟨hres, hval⟩ := (encode_word_iff hv).1 rfl
    simp [decode, Instr.space, decodeEncoderPort, hres, hval]
  | config d => exact decodeTransaction_word ⟨configCommandCode, d⟩
  | writeIo pos d => exact (decodeTransaction_word ⟨writeIoCommand pos, d⟩).trans (by simp)
  | setOcL d => exact (decodeTransaction_word ⟨cmdSetOcL, d⟩).trans (by simp [cmdSetOcL, configCommandCode])
  | setOcH d => exact (decodeTransaction_word ⟨cmdSetOcH, d⟩).trans (by simp [cmdSetOcH, cmdSetOcL, configCommandCode])
  | readIo d =>
    exact (decodeTransaction_word ⟨cmdReadIo, d⟩).trans (by simp [cmdReadIo, cmdSetOcH, cmdSetOcL, configCommandCode])

/-- Settles O1: each row's word, read off its fields, is decoded by the row's own branch. -/
theorem decodeOfEncodeIsInstruction : Obligations.DecodeOfEncodeIsInstruction := by
  unfold Obligations.DecodeOfEncodeIsInstruction
  exact fun _ hwf => decode_encode hwf

/-- Settles O2, interface by interface: each branch of a decoder has checked every field of the word. -/
theorem encodeOfDecodeIsWord : Obligations.EncodeOfDecodeIsWord := by
  unfold Obligations.EncodeOfDecodeIsWord
  intro sp w i h
  cases sp with
  | request => exact decodeRequest_ok h
  | bus => exact decodeTransaction_ok h
  | encoderPort => exact decodeEncoderPort_ok h

/-- A word decodes to an instruction exactly when it is that well-formed instruction's word on that interface. -/
theorem decode_eq_ok_iff {sp : Space} {w : Word} {i : Instr} :
    decode sp w = .ok i ↔ i.space = sp ∧ i.WellFormed ∧ encode i = w := by
  constructor
  · exact encodeOfDecodeIsWord sp w i
  · rintro ⟨rfl, hwf, rfl⟩
    exact decode_encode hwf

/-! ## The request words by their masks (R65) -/

/-- A field that lies inside a mask has the value that the match gives it. -/
theorem field_of_masked {w m v : Word} {lo len : Nat} {x : BitVec len} (h : w &&& m = v)
    (hm : field m lo len = BitVec.allOnes len) (hv : field v lo len = x) : field w lo len = x := by
  calc field w lo len = field w lo len &&& field m lo len := by rw [hm, BitVec.and_allOnes]
    _ = field (w &&& m) lo len := BitVec.extractLsb'_and.symm
    _ = x := by rw [h, hv]

/-- The instruction of a word that fits the mask and match of a request row. -/
theorem decode_of_request_mask {w : Word}
    (h : w = 0x0000#16 ∨ w &&& 0xF0F0#16 = 0x4000#16 ∨ w &&& 0xF0FF#16 = 0x8000#16 ∨ w &&& 0xF800#16 = 0xC000#16) :
    ∃ i, decode .request w = .ok i := by
  rcases h with rfl | h | h | h
  · exact ⟨.init, rfl⟩
  · have hw := writeDigit_word_iff.2 ⟨field_of_masked h rfl rfl, field_of_masked h rfl rfl,
      field_of_masked h rfl rfl, rfl, rfl⟩
    exact ⟨_, decode_eq_ok_iff.2 ⟨rfl, rfl, hw⟩⟩
  · have hw := blankDigit_word_iff.2 ⟨field_of_masked h rfl rfl, field_of_masked h rfl rfl,
      field_of_masked h rfl rfl, rfl⟩
    exact ⟨_, decode_eq_ok_iff.2 ⟨rfl, rfl, hw⟩⟩
  · have hw := update_word_iff.2 ⟨field_of_masked h rfl rfl, field_of_masked h rfl rfl, rfl, rfl⟩
    exact ⟨_, decode_eq_ok_iff.2 ⟨rfl, rfl, hw⟩⟩

/-- A request's word fits the mask and match of its row. -/
theorem request_word_masked (r : Request) :
    r.word = 0x0000#16 ∨ r.word &&& 0xF0F0#16 = 0x4000#16 ∨ r.word &&& 0xF0FF#16 = 0x8000#16 ∨
      r.word &&& 0xF800#16 = 0xC000#16 := by
  cases r with
  | init => exact .inl rfl
  | writeDigit pos val => exact .inr (.inl (Laws.TableMatch.writeDigit pos val rfl))
  | blankDigit pos => exact .inr (.inr (.inl (Laws.TableMatch.blankDigit pos rfl)))
  | update hour minute => exact .inr (.inr (.inr (Laws.TableMatch.update hour minute rfl)))

/-- Settles O3: a word that decodes is a request's word, which its row's mask fits, and a mask fixes the operation and
the reserved fields that the decoder checks. -/
theorem requestWordsLegalByMask : Obligations.RequestWordsLegalByMask := by
  unfold Obligations.RequestWordsLegalByMask
  refine fun w => ⟨⟨?_, decode_of_request_mask⟩, fun hno => ?_⟩
  · rintro ⟨i, h⟩
    obtain ⟨r, rfl⟩ := decodeRequest_request h
    obtain ⟨-, -, rfl⟩ := decodeRequest_ok h
    exact request_word_masked r
  · cases h : decode .request w with
    | ok i => exact absurd h (hno i)
    | error e => rw [decodeRequest_error h]

/-! ## The command bytes of R57 -/

/-- The command bytes with high half 3 are 0x30 to 0x3F. -/
theorem command_high_eq_three_iff {c : Byte} : c.extractLsb' 4 4 = 0x3#4 ↔ 0x30 ≤ c.toNat ∧ c.toNat ≤ 0x3F := by
  have := c.isLt
  rw [← BitVec.toNat_inj]
  simp only [BitVec.extractLsb'_toNat, Nat.shiftRight_eq_div_pow, BitVec.toNat_ofNat]
  omega

/-- The command bytes that R57 lists. -/
def ListedCommand (c : Byte) : Prop :=
  c = 0x22#8 ∨ c = 0x23#8 ∨ c = 0x24#8 ∨ c = 0x26#8 ∨ (0x30 ≤ c.toNat ∧ c.toNat ≤ 0x3F)

theorem decode_bus_of_listed {t : Txn} (h : ListedCommand t.cmd) : ∃ i, decode .bus t.word = .ok i := by
  obtain ⟨c, d⟩ := t
  rcases h with rfl | rfl | rfl | rfl | h
  · exact ⟨_, decode_encode (i := .setOcL d) rfl⟩
  · exact ⟨_, decode_encode (i := .setOcH d) rfl⟩
  · exact ⟨_, decode_encode (i := .config d) rfl⟩
  · exact ⟨_, decode_encode (i := .readIo d) rfl⟩
  · obtain ⟨p, rfl⟩ : ∃ p, c = writeIoCommand p := ⟨_, eq_writeIoCommand_iff.2 ⟨command_high_eq_three_iff.2 h, rfl⟩⟩
    exact ⟨_, decode_encode (i := .writeIo p d) rfl⟩

theorem decode_bus_of_unlisted {t : Txn} (h : ¬ ListedCommand t.cmd) :
    decode .bus t.word = .error (.unlistedCommand t.cmd) := by
  simp only [ListedCommand, not_or, ← command_high_eq_three_iff] at h
  obtain ⟨hl, hh, hc, hr, hp⟩ := h
  exact (decodeTransaction_word t).trans <| (if_neg hc).trans <| (if_neg hp).trans <| (if_neg hl).trans <|
    (if_neg hh).trans (if_neg hr)

/-- Settles O4: the listed command bytes are those of the bus rows' words, and any other falls through every branch of
the decoder. -/
theorem transactionWordsListed : Obligations.TransactionWordsListed := by
  unfold Obligations.TransactionWordsListed
  refine fun t => ⟨⟨fun ⟨i, h⟩ => ?_, decode_bus_of_listed⟩, fun hno => ?_⟩
  · by_contra hc
    cases h.symm.trans (decode_bus_of_unlisted hc)
  · exact decode_bus_of_unlisted fun hc => (decode_bus_of_listed hc).elim hno

/-- Settles O34: the pending transaction's word decodes to nothing, and both answers deliver it. -/
theorem unlistedCommandRefused : Obligations.UnlistedCommandRefused := by
  unfold Obligations.UnlistedCommandRefused
  intro s t rest he hf hp hb hl hh hc hr hio
  have hun : ¬ ListedCommand t.cmd := by
    simp only [ListedCommand, not_or]
    exact ⟨hl, hh, hc, hr, by omega⟩
  have hd : deliver t (s.setTxnAnswers rest) = .refused (.unlistedCommand t.cmd) := by
    rw [deliver, decode_bus_of_unlisted hun]
  rw [step_pending he hf hp, resultStep]
  rcases hb with hb | hb
  · simp only [hb, hd, andThen_refused]
  · simp only [hb, hd, andThen_refused]

/-! ## Words of the test vectors, and the decoder in a step -/

/-- Settles O5, by evaluating the decoder on the eleven words. -/
theorem writtenOutWordsDecode : Obligations.WrittenOutWordsDecode := by
  unfold Obligations.WrittenOutWordsDecode
  decide

/-- Settles O6: a ready block of a state that meets the invariant has nothing outstanding, so it accepts. -/
theorem stepRunsDecodedRequest : Obligations.StepRunsDecodedRequest := by
  unfold Obligations.StepRunsDecodedRequest
  intro s w rest i hi he hr hq hw
  obtain ⟨hop, hf, -, hp, ho⟩ := hi.ready_quiet hr
  rw [step_accept he hf hp ho hop, acceptStep, hq]
  simp only [hw, State.setRequests]

/-- ENCODE of a port value shows its LUT entry (R67). -/
theorem exec_encode_toNat (v : Nibble) (s : State) :
    exec (.encode v.toNat) s = .next { s with host := { s.host with pattern := some (enc v) } } := by
  simp only [exec, execEncode, encInteger_toNat]

/-- Settles O7: the port's four lines are the word of ENCODE, and the port is read first. -/
theorem stepRunsEncodeAtThePort : Obligations.StepRunsEncodeAtThePort := by
  unfold Obligations.StepRunsEncodeAtThePort
  intro s v rest he
  have hword : encode (.encode v.toNat) = v.setWidth 16 := by simp [encode]
  refine ⟨decode_eq_ok_iff.2 ⟨rfl, decide_eq_true v.isLt, hword⟩, ?_⟩
  rw [step_encode he, exec_encode_toNat]

end Sys2Proof.Machine
end

section
/-! SUPPORT. The closed set of transactions (R57): what an accepted request queues lies in it, and every step handles
only transactions that the state before it handled or that are in the set. -/

namespace Sys2Proof.Machine

/-! ## The transactions that requests queue -/

theorem emittable_configTxn (p : Params) : Emittable p configTxn := .inl (by decide)

theorem emittable_digitTxn {p : Params} {pos : Nibble} (h : pos.toNat ≤ p.maxPosition) (val : Nibble) :
    Emittable p (digitTxn pos val) := .inr ⟨pos, h, writeIoCommand_eq pos, .inr ⟨val, rfl⟩⟩

theorem emittable_blankTxn {p : Params} {pos : Nibble} (h : pos.toNat ≤ p.maxPosition) :
    Emittable p (blankTxn pos) := .inr ⟨pos, h, writeIoCommand_eq pos, .inl rfl⟩

/-- A frame writes positions 0 to 3 only, which every legal `MAX_POSITION` admits (R6). -/
theorem emittable_frameTxn {p : Params} (h : p.legal) (hour minute : Nat) (i : Fin 4) :
    Emittable p (frameTxn hour minute i) := by
  have hmax : 3 ≤ p.maxPosition := h.1
  fin_cases i
  · simp only [frameTxn]
    split
    · exact emittable_digitTxn (Nat.zero_le _) _
    · exact emittable_blankTxn (Nat.zero_le _)
  · exact emittable_digitTxn (Nat.le_trans (by decide) hmax) _
  · exact emittable_digitTxn (Nat.le_trans (by decide) hmax) _
  · exact emittable_digitTxn (pos := 3) hmax _

/-- The transactions of an accepted digit request, `l` as the move of its acceptance gives it. -/
theorem emittable_of_accepted {p : Params} {r : Request} {l : List Txn} (h : p.legal)
    (hl : (∃ pos val, r = .writeDigit pos val ∧ positionOk p pos = true ∧ l = [digitTxn pos val]) ∨
      (∃ pos, r = .blankDigit pos ∧ positionOk p pos = true ∧ l = [blankTxn pos]) ∨
      (∃ hour minute, r = .update hour minute ∧ timeOk hour minute = true ∧
        l = frameTxns p.updateOrder hour.toNat minute.toNat)) {x : Txn} (hx : x ∈ l) : Emittable p x := by
  obtain ⟨pos, val, -, hpos, rfl⟩ | ⟨pos, -, hpos, rfl⟩ | ⟨hour, minute, -, -, rfl⟩ := hl
  · rw [List.mem_singleton.1 hx]
    exact emittable_digitTxn (of_decide_eq_true hpos) val
  · rw [List.mem_singleton.1 hx]
    exact emittable_blankTxn (of_decide_eq_true hpos)
  · obtain ⟨i, -, rfl⟩ := List.mem_map.1 hx
    exact emittable_frameTxn h _ _ i

/-! ## The transactions a state holds -/

/-- `x` is queued, pending or was issued. -/
def Handles (s : State) (x : Txn) : Prop :=
  x ∈ s.block.queue ∨ s.block.pending = some x ∨ .issue x ∈ s.history

theorem emissionInv_iff {s : State} : EmissionInv s ↔ s.params.legal ∧ ∀ x, Handles s x → Emittable s.params x := by
  constructor
  · rintro ⟨hlegal, hqueued, hpending, hissued⟩
    exact ⟨hlegal, fun x hx => hx.elim (hqueued x) fun hx => hx.elim (hpending x) (hissued x)⟩
  · rintro ⟨hlegal, h⟩
    exact ⟨hlegal, fun x hx => h x (.inl hx), fun x hx => h x (.inr (.inl hx)), fun x hx => h x (.inr (.inr hx))⟩

/-- The two moves that queue a transaction queue one of the closed set: the configuration transaction, or a digit
request's. Every other move hands on what was queued or drops it. -/
theorem step_handles {s t : State} (hlegal : s.params.legal) (h : step s = .next t) {x : Txn} (hx : Handles t x) :
    Handles s x ∨ Emittable s.params x := by
  cases step_moves h with
  | encode | faulted | waitResult | waitOpen | idle => exact .inl hx
  | complete | acceptInit => exact .inl (by simpa [Handles] using hx)
  | ack _ _ _ _ _ _ _ hd =>
    have hx : x ∈ s.block.queue ∨ .issue x ∈ s.history := by
      simpa [Handles, deliver_block hd, deliver_history hd] using hx
    exact .inl (hx.imp_right .inr)
  | errLatched _ _ _ _ _ _ _ hd =>
    have hx : .issue x ∈ s.history := by simpa [Handles, deliver_history hd] using hx
    exact .inl (.inr (.inr hx))
  | errUnchanged | openErr | reserved | refuse =>
    have hx : .issue x ∈ s.history := by simpa [Handles] using hx
    exact .inl (.inr (.inr hx))
  | issue _ _ _ _ _ _ y rest hq =>
    have hx : x ∈ rest ∨ y = x ∨ .issue x ∈ s.history ∨ x = y := by simpa [Handles] using hx
    refine .inl ?_
    rw [Handles, hq]
    obtain hx | rfl | hx | rfl := hx
    · exact .inl (.tail _ hx)
    · exact .inl (.head _)
    · exact .inr (.inr hx)
    · exact .inl (.head _)
  | openOk =>
    have hx : x = configTxn ∨ s.block.pending = some x ∨ .issue x ∈ s.history := by simpa [Handles] using hx
    obtain rfl | hx := hx
    · exact .inr (emittable_configTxn _)
    · exact .inl (.inr hx)
  | acceptDigits _ _ _ _ _ _ _ _ _ _ l _ _ hl =>
    have hx : x ∈ l ∨ s.block.pending = some x ∨ .issue x ∈ s.history := by simpa [Handles] using hx
    obtain hx | hx := hx
    · exact .inr (emittable_of_accepted hlegal hl hx)
    · exact .inl (.inr hx)

/-- Settles O43: the transactions that a step adds are in the closed set, and no step writes `MAX_POSITION`. -/
theorem stepKeepsEmissionClosed : Obligations.StepKeepsEmissionClosed := by
  unfold Obligations.StepKeepsEmissionClosed
  intro s t hi h
  obtain ⟨hlegal, hclosed⟩ := emissionInv_iff.1 hi
  have hparams : t.params = s.params := (step_params_earlierConfig h).1
  rw [emissionInv_iff, hparams]
  exact ⟨hlegal, fun x hx => (step_handles hlegal h hx).elim (hclosed x) id⟩

end Sys2Proof.Machine
end

section
/-! SUPPORT. The digit encoder (spec/40_encoder.md R67 to R71): what R70 says of the sixteen patterns, as facts about
`enc`, and what ENCODE of an integer answers on each side of R71's bound. -/

namespace Sys2Proof.Machine

/-! ## The sixteen patterns -/

/-- No two digits share a pattern (R70). -/
theorem enc_injective : Function.Injective enc := by
  unfold Function.Injective
  decide

/-- No pattern lights the decimal point (R70). -/
theorem enc_getLsbD_seven : ∀ v : Nibble, (enc v).getLsbD 7 = false := by decide

/-- No digit's pattern is `BLANK_PATTERN` (R70). -/
theorem enc_ne_blankPattern : ∀ v : Nibble, enc v ≠ blankPattern := by decide

/-! ## ENCODE of an integer -/

/-- A value below 16 is what the port's four lines carry (R67). -/
theorem exec_encode_of_lt {v : Nat} (h : v < 16) (s : State) :
    exec (.encode v) s = .next { s with host := { s.host with pattern := some (enc (BitVec.ofNatLT v h)) } } :=
  exec_encode_toNat (BitVec.ofNatLT v h) s

theorem exec_encode_of_not_lt {v : Nat} (h : ¬ v < 16) (s : State) : exec (.encode v) s = .fault .valueRange := by
  simp only [exec, execEncode, encInteger, if_neg h]

/-! ## The obligations -/

/-- Settles O11: both patterns are entries of `enc`, and a value below 16 is its four bits. -/
theorem encodePatternsDistinct : Obligations.EncodePatternsDistinct := by
  unfold Obligations.EncodePatternsDistinct
  intro s s' v v' hv hv'
  have same : (BitVec.ofNatLT v hv : Nibble) = BitVec.ofNatLT v' hv' ↔ v = v' := BitVec.toNat_inj.symm
  exact ⟨_, _, _, _, exec_encode_of_lt hv s, exec_encode_of_lt hv' s', rfl, rfl,
    enc_injective.eq_iff.trans same, enc_getLsbD_seven _, enc_ne_blankPattern _⟩

/-- Settles O9: the list that the statement writes out is the LUT. -/
theorem encodeShowsLutEntry : Obligations.EncodeShowsLutEntry := by
  unfold Obligations.EncodeShowsLutEntry
  intro s v b hb
  obtain ⟨hv, rfl⟩ := List.getElem?_eq_some_iff.1 hb
  exact exec_encode_of_lt hv s

/-- Settles O10: 16 is the bound of `encInteger`, and four lines stay below it. -/
theorem encodeAboveFifteenFaults : Obligations.EncodeAboveFifteenFaults := by
  unfold Obligations.EncodeAboveFifteenFaults
  exact ⟨fun s _ hv => exec_encode_of_not_lt (Nat.not_lt_of_le hv) s, fun s v => ⟨_, exec_encode_toNat v s⟩⟩

end Sys2Proof.Machine
end

section
/-! SUPPORT. CONFIG first and at most once (R77, R84): what one more event does to a history, that every move keeps the
gate, and so does every step. -/

namespace Sys2Proof.Machine

/-! ## One more event -/

/-- A history stays configured first when the event added is no issue, or comes after CONFIG's success. -/
theorem ConfiguredFirst.concat {h : List Event} {e : Event} (hh : ConfiguredFirst h)
    (he : ∀ x, e = .issue x → x ≠ configTxn → .result configTxn .ack ∈ h) : ConfiguredFirst (h ++ [e]) := by
  intro before after x heq hn
  obtain rfl | ⟨older, last, rfl⟩ := List.eq_nil_or_concat after
  · obtain ⟨rfl, hx⟩ := List.append_inj' heq rfl
    exact he x (List.singleton_inj.1 hx) hn
  · rw [List.concat_eq_append, ← List.cons_append, ← List.append_assoc] at heq
    exact hh before older x (List.append_inj' heq rfl).1 hn

/-- The configuration transactions issued or still queued. -/
def configUses (h : List Event) (q : List Txn) : Nat := h.countP isConfigIssue + q.count configTxn

theorem configUses_concat_of_not_issue {e : Event} (he : ∀ x, e ≠ .issue x) (h : List Event) (q : List Txn) :
    configUses (h ++ [e]) q = configUses h q := by
  simp [configUses, isConfigIssue, he]

/-- An issue moves a transaction from the queue to the history. -/
theorem configUses_issue (h : List Event) (x : Txn) (q : List Txn) :
    configUses (h ++ [.issue x]) q = configUses h (x :: q) := by
  simp only [configUses, isConfigIssue, List.countP_append, List.countP_singleton, List.count_cons, Event.issue.injEq,
    decide_eq_true_eq, beq_iff_eq]
  omega

theorem configUses_nil_le (h : List Event) (q : List Txn) : configUses h [] ≤ configUses h q :=
  Nat.add_le_add_left (Nat.zero_le _) _

/-- A digit request queues position writes only. -/
theorem accepted_ne_config {p : Params} {r : Request} {l : List Txn}
    (hl : (∃ pos val, r = .writeDigit pos val ∧ positionOk p pos = true ∧ l = [digitTxn pos val]) ∨
      (∃ pos, r = .blankDigit pos ∧ positionOk p pos = true ∧ l = [blankTxn pos]) ∨
      (∃ hour minute, r = .update hour minute ∧ timeOk hour minute = true ∧
        l = frameTxns p.updateOrder hour.toNat minute.toNat)) :
    r ≠ .init ∧ ∀ x ∈ l, x ≠ configTxn := by
  obtain ⟨pos, val, rfl, -, rfl⟩ | ⟨pos, rfl, -, rfl⟩ | ⟨hour, minute, rfl, -, rfl⟩ := hl
  · exact ⟨nofun, fun x hx => List.mem_singleton.1 hx ▸ positionTxn_ne_config pos (enc val)⟩
  · exact ⟨nofun, fun x hx => List.mem_singleton.1 hx ▸ positionTxn_ne_config pos blankPattern⟩
  · refine ⟨nofun, fun x hx => ?_⟩
    obtain ⟨i, -, rfl⟩ := List.mem_map.1 hx
    rw [frameTxn_eq]
    exact positionTxn_ne_config _ _

/-! ## Each move keeps the gate -/
section
variable {s t : State} (hi : GateInv s)
include hi

/-- The gate speaks of the block, the parameters and the history only. -/
theorem GateInv.of_block_history_eq (hb : t.block = s.block) (hp : t.params = s.params)
    (hh : t.history = s.history) : GateInv t where
  control := hi.control.of_block_eq hb hp
  ordered := hh ▸ hi.ordered
  configured_acked := hb ▸ hh ▸ hi.configured_acked
  config_once := hb ▸ hh ▸ hi.config_once
  config_unopened := hb ▸ hh ▸ hi.config_unopened
  init_only_config := hb ▸ hi.init_only_config
  init_progress := hb ▸ hh ▸ hi.init_progress
  digit_no_config := hb ▸ hi.digit_no_config

/-- An event that issues nothing is no concern of the gate. -/
theorem GateInv.log (e : Event) (he : ∀ x, e ≠ .issue x) : GateInv (s.log e) where
  control := hi.control.of_block_eq rfl rfl
  ordered := hi.ordered.concat fun x hx => absurd hx (he x)
  configured_acked := fun h => List.mem_append_left _ (hi.configured_acked h)
  config_once := (configUses_concat_of_not_issue he _ _).trans_le hi.config_once
  config_unopened := fun h => (configUses_concat_of_not_issue he _ _).trans (hi.config_unopened h)
  init_only_config := hi.init_only_config
  init_progress := fun hop ho => (hi.init_progress hop ho).imp_right (.imp_right (List.mem_append_left _))
  digit_no_config := hi.digit_no_config

/-- Fault entry leaves the history and drops the request with its queue (R105). -/
theorem GateInv.raiseFault (k : FaultCode) : GateInv (raiseFault k s) where
  control := hi.control.raiseFault k
  ordered := hi.ordered
  configured_acked := hi.configured_acked
  config_once := (configUses_nil_le _ _).trans hi.config_once
  config_unopened := fun h => Nat.le_zero.1 ((configUses_nil_le _ _).trans (hi.config_unopened h).le)
  init_only_config := nofun
  init_progress := nofun
  digit_no_config := nofun

theorem GateInv.resultErr (x : Txn) : GateInv (resultErr x s) := (hi.log (.result x .err) nofun).raiseFault _

theorem GateInv.refuseRequest (w : Word) (k : FaultCode) : GateInv (refuseRequest w k s) :=
  (hi.log (.refuse w k) nofun).raiseFault k

/-- The success of INIT's pending transaction is the success of CONFIG (R77). -/
theorem GateInv.resultAck {x : Txn} (hp : s.block.pending = some x) : GateInv (resultAck x s) :=
  have hl := hi.log (.result x .ack) nofun
  { hl with
    control := hi.control.resultAck x
    init_only_config := fun hop => ⟨(hi.init_only_config hop).1, nofun⟩
    init_progress := fun hop ho => by
      obtain hq | hx | hack := hi.init_progress hop ho
      · exact .inl hq
      · obtain rfl : x = configTxn := Option.some.inj (hp.symm.trans hx)
        exact .inr (.inr (List.mem_append_right _ (.head _)))
      · exact .inr (.inr (List.mem_append_left _ hack))
    digit_no_config := fun r hop hn => ⟨(hi.digit_no_config r hop hn).1, nofun⟩ }

/-- INIT opens an unopened block, so the configuration it queues is the first (R76, R77). -/
theorem GateInv.openOk (hf : s.block.fault = none) (hp : s.block.pending = none) (ho : s.block.opening = true) :
    GateInv (openOk s) :=
  have hl := hi.log (.openResult .ok) nofun
  have ⟨hinit, hopened⟩ := hi.control.laws.opening_init ho
  { hl with
    control := hi.control.openOk hf hp ho
    config_once :=
      have hnone := Nat.eq_zero_of_add_eq_zero_right (hl.config_unopened hopened)
      Nat.add_le_add hnone.le List.count_singleton_self.le
    config_unopened := nofun
    init_only_config := fun _ => ⟨fun _ hx => List.mem_singleton.1 hx, fun _ hx => nomatch hp.symm.trans hx⟩
    init_progress := fun _ _ => .inl (.head _)
    digit_no_config := fun _ hr hn => absurd (Option.some.inj (hr.symm.trans hinit)) hn }

/-- INIT issues nothing but CONFIG, and any other request has found CONFIG acknowledged (R84). -/
theorem GateInv.issueStep {r : Request} {x : Txn} {rest : List Txn} (hf : s.block.fault = none)
    (ho : s.block.opening = false) (hr : s.block.op = some r) (hq : s.block.queue = x :: rest) :
    GateInv (issueStep x rest s) where
  control := hi.control.issueStep hf ho hr hq
  ordered := hi.ordered.concat fun y hy hn => by
    cases hy
    by_cases hinit : r = .init
    · exact absurd ((hi.init_only_config (hinit ▸ hr)).1 x (hq ▸ .head _)) hn
    · exact hi.configured_acked (hi.control.laws.digit_configured r hr hinit)
  configured_acked := fun h => List.mem_append_left _ (hi.configured_acked h)
  config_once := (configUses_issue _ x rest).trans_le (hq ▸ hi.config_once)
  config_unopened := fun h => (configUses_issue _ x rest).trans (hq ▸ hi.config_unopened h)
  init_only_config := fun hop =>
    have honly := (hi.init_only_config hop).1
    ⟨fun y hy => honly y (hq ▸ .tail _ hy), fun y hy => Option.some.inj hy ▸ honly x (hq ▸ .head _)⟩
  init_progress := fun hop _ => .inr (.inl (congrArg some ((hi.init_only_config hop).1 x (hq ▸ .head _))))
  digit_no_config := fun r' hop hn =>
    have hnone := (hi.digit_no_config r' hop hn).1
    ⟨fun y hy => hnone y (hq ▸ .tail _ hy), fun y hy => Option.some.inj hy ▸ hnone x (hq ▸ .head _)⟩

/-- A completed INIT has nothing left to issue, so CONFIG has succeeded (R82, R84). -/
theorem GateInv.completeStep {r : Request} (hf : s.block.fault = none) (hp : s.block.pending = none)
    (ho : s.block.opening = false) (hr : s.block.op = some r) (hq : s.block.queue = []) :
    GateInv (completeStep r s) :=
  have hl := hi.log (.done r) nofun
  { hl with
    control := hi.control.completeStep hf hp ho hr hq
    configured_acked := fun h => by
      obtain hc | hinit := Bool.or_eq_true_iff.1 h
      · exact hl.configured_acked hc
      · have hprog := hl.init_progress (of_decide_eq_true hinit ▸ hr) ho
        simpa [hq, hp] using hprog
    init_only_config := nofun
    init_progress := nofun
    digit_no_config := nofun }

/-- An accepted INIT finds nothing queued and nothing pending (R75). -/
theorem GateInv.acceptInit (hf : s.block.fault = none) (hp : s.block.pending = none) (hr : s.block.op = none)
    (hk : s.block.opened = false) : GateInv (openBus (logAccept .init s)) :=
  have hl := (hi.log (.accept (Request.word .init)) nofun).log (.busOpen s.params.busId) nofun
  have hidle := hi.control.idle_empty hr
  { hl with
    control := hi.control.acceptInit hf hp hk
    init_only_config := fun _ => ⟨fun _ hx => by simp [hidle] at hx, fun _ hx => nomatch hp.symm.trans hx⟩
    init_progress := nofun
    digit_no_config := fun _ h hn => absurd (Option.some.inj h).symm hn }

/-- A digit request is accepted on a configured block and queues no CONFIG (R77, R84). -/
theorem GateInv.acceptDigits {r : Request} {l : List Txn} (hcontrol : ControlInv (enqueue l (logAccept r s)))
    (hp : s.block.pending = none) (hc : s.block.configured = true) (hn : r ≠ .init)
    (hl : ∀ x ∈ l, x ≠ configTxn) : GateInv (enqueue l (logAccept r s)) :=
  have hlog := hi.log (.accept r.word) nofun
  have hnone : l.count configTxn = 0 := List.count_eq_zero.2 fun hx => hl _ hx rfl
  { hlog with
    control := hcontrol
    config_once := (Nat.add_le_add_left (hnone.trans_le (Nat.zero_le _)) _).trans hlog.config_once
    config_unopened := fun h => nomatch h.symm.trans (hi.control.laws.configured_opened hc)
    init_only_config := fun h => absurd (Option.some.inj h) hn
    init_progress := fun h => absurd (Option.some.inj h) hn
    digit_no_config := fun _ _ _ => ⟨hl, fun _ hx => nomatch hp.symm.trans hx⟩ }

end

/-- Every step keeps the gate, move by move. -/
theorem GateInv.step {s t : State} (hi : GateInv s) (h : step s = .next t) : GateInv t := by
  have hcontrol := hi.control.step h
  cases step_moves h with
  | encode => exact hi.of_block_history_eq rfl rfl rfl
  | faulted | waitResult | waitOpen | idle => exact hi
  | ack _ _ _ _ _ hp _ hd =>
    have hu := hi.of_block_history_eq (deliver_block hd) (deliver_params hd) (deliver_history hd)
    exact hu.resultAck (deliver_block hd ▸ hp)
  | errLatched _ _ x _ _ _ _ hd =>
    exact (hi.of_block_history_eq (deliver_block hd) (deliver_params hd) (deliver_history hd)).resultErr x
  | errUnchanged _ _ x l => exact (hi.of_block_history_eq (t := s.setTxnAnswers l) rfl rfl rfl).resultErr x
  | openOk _ hf hp ho l => exact (hi.of_block_history_eq (t := s.setOpenAnswers l) rfl rfl rfl).openOk hf hp ho
  | openErr => exact ((hi.log (.openResult .err) nofun).raiseFault _).of_block_history_eq rfl rfl rfl
  | issue _ hf _ ho _ hr _ _ hq => exact hi.issueStep hf ho hr hq
  | complete _ hf hp ho _ hr hq => exact hi.completeStep hf hp ho hr hq
  | reserved _ _ _ _ _ w l | refuse _ _ _ _ _ w l =>
    exact (hi.of_block_history_eq (t := s.setRequests l) rfl rfl rfl).refuseRequest _ _
  | acceptInit _ hf hp _ hr _ l _ _ hk =>
    exact (hi.of_block_history_eq (t := s.setRequests l) rfl rfl rfl).acceptInit hf hp hr hk
  | acceptDigits _ _ hp _ _ _ l _ _ _ _ _ hc hl =>
    obtain ⟨hn, hne⟩ := accepted_ne_config hl
    exact (hi.of_block_history_eq (t := s.setRequests l) rfl rfl rfl).acceptDigits hcontrol hp hc hn hne

/-- Settles O46, move by move: each of the block's moves has a lemma that it keeps the gate. -/
theorem stepKeepsConfigFirstAndOnce : Obligations.StepKeepsConfigFirstAndOnce := by
  unfold Obligations.StepKeepsConfigFirstAndOnce
  exact fun _ _ hi h => hi.step h

end Sys2Proof.Machine
end

section
/-! SUPPORT. Acceptance (R74): what an accepted request does before its first step, and R112's check order as
`firstFault` reads it off the word. -/

namespace Sys2Proof.Machine

/-! ## An accepted request -/

/-- The request's own part of its acceptance (R75, R79, R81, R85). -/
def Request.start : Request → State → State
  | .init, s => openBus s
  | .writeDigit pos val, s => enqueue [digitTxn pos val] s
  | .blankDigit pos, s => enqueue [blankTxn pos] s
  | .update hour minute, s => enqueue (frameTxns s.params.updateOrder hour.toNat minute.toNat) s

/-- A request's meaning is its acceptance (R74). -/
theorem exec_request_eq (r : Request) (s : State) : exec r.instr s = takeRequest r r.start s := by
  cases r <;> rfl

/-- A request that passes the checks is recorded and does its own part (R74). -/
theorem exec_request_accepted {s : State} {r : Request} (h : ready s.block = true) (hk : acceptFault r s = none) :
    exec r.instr s = .next (r.start (logAccept r s)) := (exec_request_eq r s).trans (takeRequest_accepted h hk)

/-- A request's word decodes to it. -/
theorem decode_word (r : Request) : decode .request r.word = .ok r.instr := by
  exact decode_eq_ok_iff.2 ⟨by cases r <;> rfl, by cases r <;> rfl, rfl⟩

theorem positionOk_iff {p : Params} {pos : Nibble} : positionOk p pos = true ↔ pos.toNat ≤ p.maxPosition :=
  decide_eq_true_iff

theorem timeOk_iff {hour : BitVec 5} {minute : BitVec 6} :
    timeOk hour minute = true ↔ hour.toNat ≤ 23 ∧ minute.toNat ≤ 59 := by
  simp only [timeOk, Bool.and_eq_true, decide_eq_true_eq]
  exact Iff.rfl

theorem acceptFault_init_eq_none {s : State} (h : s.block.opened = false) : acceptFault .init s = none := by
  rw [acceptFault_init, h]
  rfl

theorem acceptFault_writeDigit_eq_none {s : State} {pos : Nibble} (val : Nibble) (hc : s.block.configured = true)
    (hp : pos.toNat ≤ s.params.maxPosition) : acceptFault (.writeDigit pos val) s = none := by
  rw [acceptFault_writeDigit, if_pos hc, if_pos (positionOk_iff.2 hp)]

theorem acceptFault_blankDigit_eq_none {s : State} {pos : Nibble} (hc : s.block.configured = true)
    (hp : pos.toNat ≤ s.params.maxPosition) : acceptFault (.blankDigit pos) s = none := by
  rw [acceptFault_blankDigit, if_pos hc, if_pos (positionOk_iff.2 hp)]

/-- Settles O12: the open is INIT's own part. -/
theorem initAcceptedOpensBus : Obligations.InitAcceptedOpensBus := by
  unfold Obligations.InitAcceptedOpensBus
  intro s hr ho
  refine (exec_request_accepted (r := .init) hr (acceptFault_init_eq_none ho)).trans ?_
  simp [Request.start, openBus, logAccept, State.log, Request.word, Request.instr, encode]

/-- Settles O13: the queued transaction is WRITE_DIGIT's own part, its command byte and the request's word as sums. -/
theorem writeDigitAcceptedQueuesPattern : Obligations.WriteDigitAcceptedQueuesPattern := by
  unfold Obligations.WriteDigitAcceptedQueuesPattern
  intro s pos val hr hc hp
  rw [← writeIoCommand_eq, ← writeDigit_word_toNat, BitVec.ofNat_toNat, BitVec.setWidth_eq]
  exact exec_request_accepted (r := .writeDigit pos val) hr (acceptFault_writeDigit_eq_none val hc hp)

/-- Settles O14: as for WRITE_DIGIT, with the blank pattern. -/
theorem blankDigitAcceptedQueuesBlank : Obligations.BlankDigitAcceptedQueuesBlank := by
  unfold Obligations.BlankDigitAcceptedQueuesBlank
  intro s pos hr hc hp
  rw [← writeIoCommand_eq, ← blankDigit_word_toNat, BitVec.ofNat_toNat, BitVec.setWidth_eq]
  exact exec_request_accepted (r := .blankDigit pos) hr (acceptFault_blankDigit_eq_none hc hp)

/-! ## The check order, read off the word's number -/

/-- R112's first check: the decoder rejects a word for its reserved bits exactly where its number shows them. -/
theorem firstFault_of_rejected {w : Word} {e : Reject} (h : decodeRequest w = .error e) (b : Block) (p : Params) :
    firstFault w.toNat b p = some .reservedRequest := by
  have hw := w.isLt
  unfold decodeRequest at h
  simp only [field_eq_iff, BitVec.toNat_ofNat] at h
  unfold firstFault
  split_ifs at h with hinit hres hwrite hres hblank hres hres
  · rw [if_pos (by omega), if_pos (by omega)]
  · rw [if_neg (by omega), if_pos (by omega), if_pos (by omega)]
  · rw [if_neg (by omega), if_neg (by omega), if_pos (by omega), if_pos (by omega)]
  · rw [if_neg (by omega), if_neg (by omega), if_neg (by omega), if_pos (by omega)]

/-- The range check of a position, the failing side first (R80). -/
theorem positionFault_eq (p : Params) (pos : Nibble) :
    (if p.maxPosition < pos.toNat then some FaultCode.positionRange else none) =
      if positionOk p pos then none else some .positionRange := by
  simp only [positionOk_iff, ← Nat.not_le, ite_not]

/-- The range check of a time, the failing side first (R90). -/
theorem timeFault_eq (hour : BitVec 5) (minute : BitVec 6) :
    (if 23 < hour.toNat ∨ 59 < minute.toNat then some FaultCode.timeRange else none) =
      if timeOk hour minute then none else some .timeRange := by
  simp only [timeOk_iff, ← Nat.not_le, ← not_and_or, ite_not]

/-- R112's second and third checks, on the word of a request. -/
theorem firstFault_word (r : Request) (s : State) : firstFault r.word.toNat s.block s.params = acceptFault r s := by
  cases r with
  | init => rw [acceptFault_init]; rfl
  | writeDigit pos val =>
    have hp := pos.isLt
    have hv := val.isLt
    rw [Request.word, Request.instr, writeDigit_word_toNat, acceptFault_writeDigit, firstFault,
      if_neg (by omega), if_pos (by omega), if_neg (by omega)]
    have hpos : (0x4000 + pos.toNat * 0x100 + val.toNat) / 0x100 % 0x10 = pos.toNat := by omega
    rw [hpos, positionFault_eq]
    cases s.block.configured <;> rfl
  | blankDigit pos =>
    have hp := pos.isLt
    rw [Request.word, Request.instr, blankDigit_word_toNat, acceptFault_blankDigit, firstFault,
      if_neg (by omega), if_neg (by omega), if_pos (by omega), if_neg (by omega)]
    have hpos : (0x8000 + pos.toNat * 0x100) / 0x100 % 0x10 = pos.toNat := by omega
    rw [hpos, positionFault_eq]
    cases s.block.configured <;> rfl
  | update hour minute =>
    have hh := hour.isLt
    have hm := minute.isLt
    rw [Request.word, Request.instr, update_word_toNat, acceptFault_update, firstFault,
      if_neg (by omega), if_neg (by omega), if_neg (by omega), if_neg (by omega)]
    have hhour : (0xC000 + hour.toNat * 0x40 + minute.toNat) / 0x40 % 0x20 = hour.toNat := by omega
    have hminute : (0xC000 + hour.toNat * 0x40 + minute.toNat) % 0x40 = minute.toNat := by omega
    rw [hhour, hminute, timeFault_eq]
    cases s.block.configured <;> rfl

/-- The first failing check, for every word. -/
theorem firstFault_eq (w : Word) (s : State) :
    (firstFault w.toNat s.block s.params = some .reservedRequest ∧ decode .request w = .error .reservedRequest) ∨
      ∃ r : Request, w = r.word ∧ decode .request w = .ok r.instr ∧
        firstFault w.toNat s.block s.params = acceptFault r s := by
  cases h : decodeRequest w with
  | error e => exact .inl ⟨firstFault_of_rejected h _ _, (decodeRequest_error h) ▸ h⟩
  | ok i =>
    obtain ⟨r, rfl⟩ := decodeRequest_request h
    obtain ⟨-, -, rfl⟩ := decodeRequest_ok h
    exact .inr ⟨r, rfl, h, firstFault_word r s⟩

/-- A refusal at a quiet block records the fault and nothing else of the block (R105). -/
theorem refuseRequest_quiet {s : State} (hop : s.block.op = none) (hf : s.block.fault = none)
    (hq : s.block.queue = []) (hp : s.block.pending = none) (ho : s.block.opening = false) (w : Word)
    (k : FaultCode) : refuseRequest w k s =
      { s with block := { s.block with fault := some k }, history := s.history ++ [.refuse w k] } := by
  simp [refuseRequest, raiseFault, State.log, hop, hf, hq, hp, ho]

/-- The request's own part adds no issue and leaves the request, the fault, the registers and the ports (R75, R80). -/
theorem start_frame (r : Request) (s : State) :
    ∃ more, (r.start s).history = s.history ++ more ∧ (∀ x, Event.issue x ∉ more) ∧
      (r.start s).block.op = s.block.op ∧ (r.start s).block.fault = s.block.fault ∧
      (r.start s).block.pending = s.block.pending ∧ (r.start s).dev = s.dev ∧ (r.start s).bus = s.bus ∧
      (r.start s).host = s.host := by
  cases r with
  | init => exact ⟨[.busOpen s.params.busId], rfl, by simp, rfl, rfl, rfl, rfl, rfl, rfl⟩
  | writeDigit | blankDigit | update =>
    exact ⟨[], (List.append_nil _).symm, fun _ => List.not_mem_nil, rfl, rfl, rfl, rfl, rfl, rfl⟩

/-- Settles O17: a word the decoder rejects has a reserved bit set, and any other word is a request's, whose checks
`firstFault` reads off in the order of `acceptFault`. -/
theorem acceptanceFollowsCheckOrder : Obligations.AcceptanceFollowsCheckOrder := by
  unfold Obligations.AcceptanceFollowsCheckOrder
  intro s w rest hi he hr hq
  obtain ⟨hop, hf, hqueue, hp, ho⟩ := hi.ready_quiet hr
  have refused : ∀ k, refuseRequest w k (s.setRequests rest) = { s with
      block := { s.block with fault := some k }
      host := { s.host with requests := rest }
      history := s.history ++ [.refuse w k] } := refuseRequest_quiet (s := s.setRequests rest) hop hf hqueue hp ho w
  obtain ⟨hk, hw⟩ | ⟨r, rfl, hw, hk⟩ := firstFault_eq w s
  · rw [hk, step_accept he hf hp ho hop, acceptStep, hq]
    simp only [hw, refused]
  · rw [hk, stepRunsDecodedRequest s _ rest _ hi he hr hq hw]
    cases hfault : acceptFault r s with
    | some k => exact (exec_request_refused (s := s.setRequests rest) hr hfault).trans (congrArg _ (refused k))
    | none =>
      obtain ⟨more, hh, hmore, hop', hf', hp', hdev, hbus, hhost⟩ := start_frame r (logAccept r (s.setRequests rest))
      exact ⟨_, r, more, exec_request_accepted (s := s.setRequests rest) hr hfault, by rw [hhost]; rfl, hop',
        hf'.trans hf, by rw [hh]; simp, hmore, hdev, hbus, hp'.trans hp⟩

end Sys2Proof.Machine
end

section
/-! SUPPORT. The steps inside a request (R73, R76, R82), and the whole runs of INIT, WRITE_DIGIT and BLANK_DIGIT. -/

namespace Sys2Proof.Machine

/-! ## The steps -/

/-- A transaction whose command byte names a register writes its byte there and changes nothing else (R93 to R95). -/
theorem deliver_of_register {x : Txn} (hx : x.cmd = 0x24#8 ∨ (0x30 ≤ x.cmd.toNat ∧ x.cmd.toNat ≤ 0x3F)) (s : State) :
    ∃ d : Expander, deliver x s = .next { s with dev := d } ∧
      ∀ c, d.byteAt c = if c = x.cmd then some x.data else s.dev.byteAt c := by
  obtain ⟨u, hu⟩ : ∃ u, deliver x s = .next u := by
    rw [deliver_eq]
    by_cases hc : x.cmd = configCommandCode
    · exact ⟨_, if_pos hc⟩
    · have hhigh := command_high_eq_three_iff.2 (hx.resolve_left hc)
      exact ⟨_, (if_neg hc).trans (if_pos hhigh)⟩
  exact ⟨u.dev, hu.trans (congrArg _ (deliver_frame hu)), deliver_byteAt hu⟩

/-- The bus acknowledges: the transaction is delivered, then no longer pending (R73). -/
theorem step_ack {s : State} {x : Txn} {rest : List TxnAnswer} (he : s.host.encoderReads = [])
    (hf : s.block.fault = none) (hp : s.block.pending = some x) (hb : s.bus.txns = .ack :: rest) :
    step s = (deliver x (s.setTxnAnswers rest)).andThen (resultAck x) := by
  rw [step_pending he hf hp, resultStep]
  simp only [hb]

/-- The configuration transaction written out (R54, R77). -/
theorem configTxn_eq : configTxn = { cmd := 0x24#8, data := 0x03#8 } := rfl

/-- The configuration transaction fails: DEV.cfg takes its byte or stays, as the draw says (R100). -/
theorem step_config_err {s : State} {latched : Bool} {rest : List TxnAnswer} (he : s.host.encoderReads = [])
    (hf : s.block.fault = none) (hp : s.block.pending = some configTxn) (hb : s.bus.txns = .err latched :: rest) :
    step s = .next (resultErr configTxn
      ((s.setTxnAnswers rest).setCfg (if latched then 0x03#8 else s.dev.cfg))) := by
  rw [step_pending he hf hp, resultStep]
  cases latched with
  | true =>
    simp only [hb, deliver_config, andThen_next]
    rfl
  | false =>
    simp only [hb]
    rfl

/-- Settles O19: ResultStep(ack) delivers the transaction and then clears `S.pending`. -/
theorem ackWritesTargetOnly : Obligations.AckWritesTargetOnly := by
  unfold Obligations.AckWritesTargetOnly
  intro s x rest he hf hp hb hx
  obtain ⟨d, hd, hbyte⟩ := deliver_of_register hx (s.setTxnAnswers rest)
  refine ⟨d, ?_, hbyte⟩
  rw [step_ack he hf hp hb, hd]
  rfl

/-- Settles O8: the delivery of a transaction is the meaning of the command its word decodes to. -/
theorem stepRunsDecodedBusCommand : Obligations.StepRunsDecodedBusCommand := by
  unfold Obligations.StepRunsDecodedBusCommand
  intro s x rest i he hf hp hb hi
  rw [step_ack he hf hp hb, deliver, hi]
  rfl

/-- Settles O18: with a request in progress, nothing outstanding and something queued, IssueStep is the step taken. -/
theorem issueStepSendsQueueHead : Obligations.IssueStepSendsQueueHead := by
  unfold Obligations.IssueStepSendsQueueHead
  intro s r x rest he hf hr hp ho hq
  exact step_issue he hf hp ho hr hq

theorem step_open_ok {s : State} {rest : List OpenAnswer} (he : s.host.encoderReads = [])
    (hf : s.block.fault = none) (hp : s.block.pending = none) (ho : s.block.opening = true)
    (hb : s.bus.opens = .ok :: rest) : step s = .next (openOk (s.setOpenAnswers rest)) := by
  rw [step_opening he hf hp ho, openResultStep, hb]

theorem step_open_err {s : State} {rest : List OpenAnswer} (he : s.host.encoderReads = [])
    (hf : s.block.fault = none) (hp : s.block.pending = none) (ho : s.block.opening = true)
    (hb : s.bus.opens = .err :: rest) : step s = .next (openErr (s.setOpenAnswers rest)) := by
  rw [step_opening he hf hp ho, openResultStep, hb]

/-- Settles O21: the two answers are `openOk` and `openErr`, and no fault stands before `openErr` raises its own. -/
theorem openAnswerConfiguresOrFaults : Obligations.OpenAnswerConfiguresOrFaults := by
  unfold Obligations.OpenAnswerConfiguresOrFaults
  intro s rest he hf hp ho
  refine ⟨step_open_ok he hf hp ho, fun hb => ?_⟩
  rw [step_open_err he hf hp ho hb]
  simp [openErr, raiseFault, State.log, State.setOpenAnswers, hf]

theorem requestDone_iff (b : Block) :
    requestDone b = true ↔ b.op ≠ none ∧ b.queue = [] ∧ b.pending = none ∧ b.opening = false := by
  simp [requestDone, Option.isSome_iff_ne_none, and_assoc]

/-- Settles O22: `done(S)` is the condition under which CompleteStep is the step taken. -/
theorem completionEndsRequest : Obligations.CompletionEndsRequest := by
  unfold Obligations.CompletionEndsRequest
  intro s r he hf hr hd
  obtain ⟨-, hq, hp, ho⟩ := (requestDone_iff _).1 hd
  exact ⟨completeStep r s, step_complete he hf hp ho hr hq, (ready_iff _).2 ⟨rfl, hf⟩, rfl⟩

/-! ## Runs that stand still -/

/-- A state that answers itself is where every run from it ends. -/
theorem run_of_step_self {s : State} (h : step s = .next s) (n : Nat) : run n s = .next s := by
  induction n with
  | zero => rfl
  | succ n ih => exact (run_succ h).trans ih

/-- A faulted block stands still for ever (R113). -/
theorem run_faulted {s : State} (he : s.host.encoderReads = []) (hf : s.block.fault ≠ none) (n : Nat) :
    run n s = .next s := run_of_step_self (step_faulted he hf) n

/-! ## A request that writes one position -/

/-- A digit request with one position write, from the port to `Done`, the bus answering ack (R73, R74, R82, R95). -/
theorem run_one_position {s : State} {r : Request} {p : Nibble} {d : Byte} {rest : List Word}
    {txns : List TxnAnswer} (hi : ControlInv s) (he : s.host.encoderReads = []) (hr : ready s.block = true)
    (hq : s.host.requests = r.word :: rest) (hn : r ≠ .init) (hk : acceptFault r s = none)
    (hstart : r.start = enqueue [positionTxn p d]) (hb : s.bus.txns = .ack :: txns) :
    run 4 s = .next { s with
      dev := s.dev.write p d
      history := s.history ++
        [.accept r.word, .issue (positionTxn p d), .result (positionTxn p d) .ack, .done r]
      host := { s.host with requests := rest }
      bus := { s.bus with txns := txns } } := by
  obtain ⟨hop, hf, hqueue, hp, ho⟩ := hi.ready_quiet hr
  refine (run_accept 3 hi he hr hq (decode_word r) (exec_request_eq r _) hk).trans ?_
  rw [hstart]
  refine (run_position_ack (s := enqueue [positionTxn p d] (logAccept r (s.setRequests rest))) 1 he hf hp ho rfl rfl
    hb).trans ?_
  refine (run_succ (by exact step_complete he hf hp ho rfl rfl)).trans ?_
  simp [completeStep, enqueue, logAccept, State.log, State.setRequests, hn, ← hop, ← hqueue]

/-- Settles O27: the request's one transaction writes LUT[val] to its position. -/
theorem writeDigitRunShowsDigit : Obligations.WriteDigitRunShowsDigit := by
  unfold Obligations.WriteDigitRunShowsDigit
  intro s pos val rest txns hi he hr hc hp hq hb
  have hrun := run_one_position (r := .writeDigit pos val) (p := pos) (d := enc val) hi he hr hq
    nofun (acceptFault_writeDigit_eq_none val hc hp) rfl hb
  rw [← writeIoCommand_eq]
  exact ⟨_, hrun, rfl, rfl, rfl, rfl, rfl, rfl, fun p => write_position _ _ p _⟩

/-- Settles O28: the request's one transaction writes the blank pattern to its position, whatever stood there. -/
theorem blankDigitRunBlanks : Obligations.BlankDigitRunBlanks := by
  unfold Obligations.BlankDigitRunBlanks
  intro s pos rest txns hi he hr hc hp hq hb
  have hrun := run_one_position (r := .blankDigit pos) (p := pos) (d := blankPattern) hi he hr hq
    nofun (acceptFault_blankDigit_eq_none hc hp) rfl hb
  rw [← writeIoCommand_eq]
  exact ⟨_, hrun, rfl, rfl, rfl, rfl, rfl, rfl, fun p => write_position _ _ p _⟩

/-! ## INIT -/

/-- The state in which INIT's configuration transaction has gone to the bus, `rest` being left at the port and `opens`
of the bus's answers to an open. -/
def initPending (rest : List Word) (opens : List OpenAnswer) (s : State) : State :=
  { s with
    block := { s.block with op := some .init, opened := true, pending := some configTxn }
    history := s.history ++
      [.accept 0x0000#16, .busOpen s.params.busId, .openResult .ok, .issue configTxn]
    host := { s.host with requests := rest }
    bus := { s.bus with opens := opens } }

section
variable {s : State} {rest : List Word} {opens : List OpenAnswer} (hi : ControlInv s) (he : s.host.encoderReads = [])
  (hr : ready s.block = true) (ho : s.block.opened = false) (hq : s.host.requests = 0x0000#16 :: rest)
include hi he hr ho hq

/-- INIT accepted: its first step (R74, R75). -/
theorem run_init_accept (n : Nat) :
    run (n + 1) s = run n (openBus (logAccept .init (s.setRequests rest))) :=
  run_accept n hi he hr hq (decode_word .init) (exec_request_eq .init _) (acceptFault_init_eq_none ho)

/-- INIT accepted, its open answered ok, its transaction issued (R73, R76, R77). -/
theorem run_init_pending (n : Nat) (hb : s.bus.opens = .ok :: opens) :
    run (n + 3) s = run n (initPending rest opens s) := by
  obtain ⟨hop, hf, hqueue, hp, hopening⟩ := hi.ready_quiet hr
  refine (run_init_accept hi he hr ho hq (n + 2)).trans ?_
  refine (run_succ (n := n + 1) (by exact step_open_ok he hf hp rfl hb)).trans ?_
  refine (run_succ (n := n) (by exact step_issue he hf hp rfl rfl rfl)).trans ?_
  simp [initPending, issueStep, openOk, enqueue, State.setOpenAnswers, openBus, logAccept, State.log,
    State.setRequests, Request.word, Request.instr, encode, ← hqueue, ← hopening]

/-- The open fails: BUS_OPEN_ERROR after two steps, and the block stands still (R76, R78). -/
theorem run_init_open_err (hb : s.bus.opens = .err :: opens) :
    ∃ t, run 2 s = .next t ∧ t.block = { s.block with fault := some .busOpenError } ∧ t.dev = s.dev ∧
      t.history = s.history ++ [.accept 0x0000#16, .busOpen s.params.busId, .openResult .err] ∧
      ∀ n, run n t = .next t := by
  obtain ⟨hop, hf, hqueue, hp, hopening⟩ := hi.ready_quiet hr
  have herr := step_open_err (s := openBus (logAccept .init (s.setRequests rest))) he hf hp rfl hb
  refine ⟨_, (run_init_accept hi he hr ho hq 1).trans (run_succ herr), ?_, rfl, ?_, run_faulted he ?_⟩
  · simp [raiseFault, hop, hf, hqueue, hp, hopening]
  · simp [Request.word, Request.instr, encode]
  · simp

/-- The configuration transaction fails: BUS_TRANSACTION_ERROR after four steps, DEV.cfg as the draw says, and the block
stands still (R78, R100). -/
theorem run_init_config_err {latched : Bool} {txns : List TxnAnswer} (hopens : s.bus.opens = .ok :: opens)
    (htxns : s.bus.txns = .err latched :: txns) :
    ∃ t, run 4 s = .next t ∧
      t.block = { s.block with fault := some .busTransactionError, opened := true, configured := false } ∧
      t.history = s.history ++ [.accept 0x0000#16, .busOpen s.params.busId, .openResult .ok,
        .issue configTxn, .result configTxn .err] ∧
      t.dev.cfg = (if latched then 0x03#8 else s.dev.cfg) ∧ (∀ p, t.dev.position p = s.dev.position p) ∧
      ∀ n, run n t = .next t := by
  obtain ⟨hop, hf, hqueue, hp, hopening⟩ := hi.ready_quiet hr
  have hconf : s.block.configured = false := Bool.eq_false_iff.2 fun hc =>
    nomatch ho.symm.trans (hi.laws.configured_opened hc)
  have herr := step_config_err (s := initPending rest opens s) he hf rfl htxns
  refine ⟨_, (run_init_pending hi he hr ho hq 1 hopens).trans (run_succ herr), ?_, ?_, ?_, ?_, run_faulted ?_ ?_⟩
  · simp [initPending, raiseFault, hop, hf, hqueue, hp, hopening, hconf]
  · simp [initPending]
  · simp [initPending]
  · simp [initPending]
  · simp [initPending, he]
  · simp

end

/-- Settles O25: from the pending configuration transaction, its acknowledgement writes DEV.cfg and INIT completes. -/
theorem initRunConfiguresExpander : Obligations.InitRunConfiguresExpander := by
  unfold Obligations.InitRunConfiguresExpander
  intro s rest opens txns hi he hr ho hq hopens htxns
  obtain ⟨hop, hf, hqueue, hp, hopening⟩ := hi.ready_quiet hr
  refine ⟨?_, rfl⟩
  have hack := step_ack (s := initPending rest opens s) he hf rfl htxns
  rw [deliver_config, andThen_next] at hack
  refine (run_init_pending hi he hr ho hq 2 hopens).trans ((run_succ hack).trans ?_)
  refine (run_succ (by exact step_complete he hf rfl hopening rfl hqueue)).trans ?_
  simp [initPending, completeStep, resultAck, State.setCfg, State.setTxnAnswers, State.log, configTxn_eq,
    ← hop, ← hp]

/-- Settles O26: both failures leave a faulted block with nothing on the encoder port, where every run stands still. -/
theorem initFailuresAreFatal : Obligations.InitFailuresAreFatal := by
  unfold Obligations.InitFailuresAreFatal
  intro s rest hi he hr ho hq
  exact ⟨fun _ hb => run_init_open_err hi he hr ho hq hb,
    fun _ _ _ hopens htxns => run_init_config_err hi he hr ho hq hopens htxns⟩

end Sys2Proof.Machine
end

section
/-! SUPPORT. UPDATE (spec/42_update.md): its acceptance, a frame as a list of position writes, and the run of a frame
whose first `k` transactions are acknowledged, from which both its completion and its failure follow. -/

namespace Sys2Proof.Machine

/-! ## Acceptance -/

theorem acceptFault_update_eq_none {s : State} {hour : BitVec 5} {minute : BitVec 6}
    (hc : s.block.configured = true) (hh : hour.toNat ≤ 23) (hm : minute.toNat ≤ 59) :
    acceptFault (.update hour minute) s = none := by
  rw [acceptFault_update, if_pos hc, if_pos (timeOk_iff.2 ⟨hh, hm⟩)]

/-- Position 0's byte: the tens of hours, blanked for the hours up to 10 (R87). -/
theorem frameTxn_zero_data (hour minute : Nat) :
    (frameTxn hour minute 0).data = if hour > 10 then enc (BitVec.ofNat 4 (hour / 10)) else 0x00#8 :=
  apply_ite Txn.data _ _ _

/-- Settles O15: the queue is UPDATE's own part, its transactions and the request's word written out. -/
theorem updateAcceptedQueuesFrame : Obligations.UpdateAcceptedQueuesFrame := by
  unfold Obligations.UpdateAcceptedQueuesFrame
  intro s hour minute hr hc hh hm
  rw [← update_word_toNat, BitVec.ofNat_toNat, BitVec.setWidth_eq]
  refine (exec_request_accepted (r := .update hour minute) hr (acceptFault_update_eq_none hc hh hm)).trans ?_
  refine congrArg (fun queue => Host.Outcome.next (enqueue queue _)) (List.map_congr_left fun i _ => ?_)
  match i with
  | 0 => rw [frameTxn_eq, frameTxn_zero_data]; rfl
  | 1 | 2 | 3 => rfl

/-! ## A frame as position writes -/

/-- The position and the byte that each entry of `l` writes in the frame for hour:minute. -/
def frameWrites (hour minute : Nat) (l : List (Fin 4)) : List (Nibble × Byte) :=
  l.map fun i => (BitVec.ofNat 4 i.val, (frameTxn hour minute i).data)

/-- The registers after the frame's transactions for the entries of `l` have succeeded in order. -/
def frameDev (hour minute : Nat) (l : List (Fin 4)) (e : Expander) : Expander :=
  (frameWrites hour minute l).foldl (fun e x => e.write x.1 x.2) e

section
variable (hour minute : Nat) (l : List (Fin 4))

theorem frameWrites_txns :
    (frameWrites hour minute l).map (fun x => positionTxn x.1 x.2) = frameTxns l hour minute := by
  rw [frameWrites, frameTxns, List.map_map]
  exact List.map_congr_left fun i _ => (frameTxn_eq hour minute i).symm

theorem frameWrites_length : (frameWrites hour minute l).length = l.length := List.length_map ..

@[simp] theorem frameDev_cons (i : Fin 4) (e : Expander) :
    frameDev hour minute (i :: l) e =
      frameDev hour minute l (e.write (BitVec.ofNat 4 i.val) (frameTxn hour minute i).data) := rfl

/-- The first `k` entries written, then the entry at `k` where its byte is taken. -/
theorem frameDev_take {k : Nat} (hk : k < l.length) (latched : Bool) (e : Expander) :
    frameDev hour minute (l.take (if latched then k + 1 else k)) e =
      if latched then
        (frameDev hour minute (l.take k) e).write (BitVec.ofNat 4 l[k].val) (frameTxn hour minute l[k]).data
      else frameDev hour minute (l.take k) e := by
  cases latched with
  | true =>
    rw [if_pos rfl, if_pos rfl, List.take_succ_eq_append_getElem hk, frameDev, frameWrites, List.map_append,
      List.foldl_append]
    rfl
  | false => rfl

theorem frameDev_cfg (e : Expander) : (frameDev hour minute l e).cfg = e.cfg := by
  induction l generalizing e with
  | nil => rfl
  | cons i l ih => exact ih _

/-- Different entries are different positions. -/
theorem ofNat_entry_inj : ∀ i j : Fin 4, (BitVec.ofNat 4 i.val : Nibble) = BitVec.ofNat 4 j.val ↔ i = j := by
  decide

/-- Each of the positions 0 to 3 holds the frame's byte once it has been written (R92). -/
theorem frameDev_position (e : Expander) (i : Fin 4) :
    (frameDev hour minute l e).position (BitVec.ofNat 4 i.val) =
      if i ∈ l then (frameTxn hour minute i).data else e.position (BitVec.ofNat 4 i.val) := by
  induction l generalizing e with
  | nil => rfl
  | cons j l ih =>
    rw [frameDev_cons, ih, write_position]
    by_cases hij : i = j
    · simp [hij]
    · simp [hij, ofNat_entry_inj]

/-- No frame touches the positions from 4 on. -/
theorem frameDev_position_of_ge (e : Expander) {p : Nibble} (hp : 4 ≤ p.toNat) :
    (frameDev hour minute l e).position p = e.position p := by
  induction l generalizing e with
  | nil => rfl
  | cons j l ih =>
    have hne : p ≠ BitVec.ofNat 4 j.val := by
      rintro rfl
      have := j.isLt
      rw [BitVec.toNat_ofNat] at hp
      omega
    rw [frameDev_cons, ih, write_position, if_neg hne]

end

/-- The transactions among the events of acknowledged position writes, `f` being what picks out the issues. -/
theorem filterMap_ackedEvents {f : Event → Option Txn} (hissue : ∀ x, f (.issue x) = some x)
    (hresult : ∀ x r, f (.result x r) = none) (l : List (Nibble × Byte)) :
    (ackedEvents l).filterMap f = l.map fun x => positionTxn x.1 x.2 := by
  induction l with
  | nil => rfl
  | cons x l ih =>
    rw [ackedEvents, List.flatMap_cons, List.filterMap_append, List.map_cons, ← ih]
    simp [hissue, hresult, ackedEvents]

/-! ## UPDATE_ORDER -/

section
variable {p : Params} (h : p.legal)
include h

theorem updateOrder_length : p.updateOrder.length = 4 := by
  obtain ⟨-, -, hperm⟩ := h
  exact hperm.length_eq

theorem updateOrder_nodup : p.updateOrder.Nodup := by
  obtain ⟨-, -, hperm⟩ := h
  exact hperm.nodup_iff.2 (by decide)

theorem mem_updateOrder (i : Fin 4) : i ∈ p.updateOrder := by
  obtain ⟨-, -, hperm⟩ := h
  exact hperm.mem_iff.2 (List.mem_finRange i)

end

/-- An entry of a list without repetition is among the first `n` exactly when its index is below `n`. -/
theorem mem_take_iff_of_getElem? {α : Type} [DecidableEq α] {l : List α} (hl : l.Nodup) {j : Nat} {a : α}
    (ha : l[j]? = some a) (n : Nat) : a ∈ l.take n ↔ j < n := by
  obtain ⟨hj, rfl⟩ := List.getElem?_eq_some_iff.1 ha
  rw [List.mem_take_iff_idxOf_lt (List.getElem_mem hj), hl.idxOf_getElem j hj]

/-! ## A frame under way, and one that fails -/

/-- One position write, issued and failed: the position takes its byte or stays, as the draw says, and the block is
faulted (R73, R83, R100). -/
theorem run_position_err {s : State} {r : Request} {x : Txn} {p : Nibble} {d : Byte} {rest : List Txn}
    {latched : Bool} {l : List TxnAnswer} (hx : x = positionTxn p d) (he : s.host.encoderReads = [])
    (hf : s.block.fault = none) (hp : s.block.pending = none) (ho : s.block.opening = false)
    (hr : s.block.op = some r) (hq : s.block.queue = x :: rest) (hb : s.bus.txns = .err latched :: l) :
    run 2 s = .next { s with
      block := { s.block with fault := some .busTransactionError, op := none, queue := [] }
      dev := if latched then s.dev.write p d else s.dev
      history := s.history ++ [.issue x, .result x .err]
      bus := { s.bus with txns := l } } := by
  subst hx
  rw [run_succ (step_issue he hf hp ho hr hq)]
  refine run_succ (n := 0) ?_
  rw [step_pending (t := positionTxn p d) (by exact he) (by exact hf) rfl, resultStep]
  simp only [issueStep_bus, hb]
  cases latched <;>
    simp [resultErr, raiseFault, issueStep, State.log, State.setTxnAnswers, State.setPosition, hf, ← hp, ← ho]

/-- The state in which the first `k` transactions of an UPDATE have been acknowledged and the others are queued,
`rest` being left at the port and `txns` of the bus's answers. -/
def frameUnderWay (hour : BitVec 5) (minute : BitVec 6) (k : Nat) (rest : List Word) (txns : List TxnAnswer)
    (s : State) : State :=
  { s with
    block := { s.block with
      op := some (.update hour minute)
      queue := frameTxns (s.params.updateOrder.drop k) hour.toNat minute.toNat }
    dev := frameDev hour.toNat minute.toNat (s.params.updateOrder.take k) s.dev
    history := s.history ++ .accept (encode (.update hour minute)) ::
      ackedEvents (frameWrites hour.toNat minute.toNat (s.params.updateOrder.take k))
    host := { s.host with requests := rest }
    bus := { s.bus with txns := txns } }

section
variable {s : State} {hour : BitVec 5} {minute : BitVec 6} {rest : List Word} (hi : ControlInv s)
  (he : s.host.encoderReads = []) (hr : ready s.block = true) (hc : s.block.configured = true)
  (hh : hour.toNat ≤ 23) (hm : minute.toNat ≤ 59) (hq : s.host.requests = encode (.update hour minute) :: rest)
include hi he hr hc hh hm hq

/-- UPDATE accepted, its first `k` transactions issued and acknowledged (R73, R74, R85). -/
theorem run_frameUnderWay {k : Nat} {txns : List TxnAnswer} (hk : k ≤ 4)
    (hb : s.bus.txns = List.replicate k .ack ++ txns) (n : Nat) :
    run (n + 2 * k + 1) s = run n (frameUnderWay hour minute k rest txns s) := by
  obtain ⟨hop, hf, -, hp, ho⟩ := hi.ready_quiet hr
  have hlen : (frameWrites hour.toNat minute.toNat (s.params.updateOrder.take k)).length = k := by
    rw [frameWrites_length, List.length_take, updateOrder_length hi.legal, Nat.min_eq_left hk]
  have hqueue : frameTxns s.params.updateOrder hour.toNat minute.toNat =
      (frameWrites hour.toNat minute.toNat (s.params.updateOrder.take k)).map (fun x => positionTxn x.1 x.2) ++
        frameTxns (s.params.updateOrder.drop k) hour.toNat minute.toNat := by
    rw [frameWrites_txns, frameTxns, frameTxns, frameTxns, ← List.map_append, List.take_append_drop]
  have haccept := run_accept (r := .update hour minute) (n + 2 * k) hi he hr hq
    (decode_word (.update hour minute)) (exec_request_eq (.update hour minute) _) (acceptFault_update_eq_none hc hh hm)
  have hacks := run_positions_ack (frameWrites hour.toNat minute.toNat (s.params.updateOrder.take k))
    (s := Request.start (.update hour minute) (logAccept (.update hour minute) (s.setRequests rest))) n
    he hf hp ho rfl hqueue (by rw [hlen]; exact hb)
  rw [hlen] at hacks
  refine haccept.trans (hacks.trans ?_)
  simp [frameUnderWay, frameDev, Request.start, enqueue, logAccept, State.log, State.setRequests, Request.word,
    Request.instr]

/-- UPDATE accepted, its first `k` transactions acknowledged and that of the entry `i` at `k` failed: the positions
written are those of the first `k` entries, and `i`'s too where the failed byte was taken (R91). -/
theorem run_frame_err {k : Nat} {i : Fin 4} {latched : Bool} {txns : List TxnAnswer}
    (hk : s.params.updateOrder[k]? = some i)
    (hb : s.bus.txns = List.replicate k .ack ++ .err latched :: txns) :
    run (2 * k + 3) s = .next { s with
      block := { s.block with fault := some .busTransactionError }
      dev := frameDev hour.toNat minute.toNat (s.params.updateOrder.take (if latched then k + 1 else k)) s.dev
      history := s.history ++ .accept (encode (.update hour minute)) ::
        (ackedEvents (frameWrites hour.toNat minute.toNat (s.params.updateOrder.take k)) ++
          [.issue (frameTxn hour.toNat minute.toNat i), .result (frameTxn hour.toNat minute.toNat i) .err])
      host := { s.host with requests := rest }
      bus := { s.bus with txns := txns } } := by
  obtain ⟨hop, hf, hqueue, hp, ho⟩ := hi.ready_quiet hr
  obtain ⟨hlt, rfl⟩ := List.getElem?_eq_some_iff.1 hk
  have hk4 : k ≤ 4 := hlt.le.trans_eq (updateOrder_length hi.legal)
  have herr := run_position_err (frameTxn_eq hour.toNat minute.toNat s.params.updateOrder[k])
    (s := frameUnderWay hour minute k rest (.err latched :: txns) s) he hf hp ho rfl
    (congrArg (frameTxns · hour.toNat minute.toNat) (List.drop_eq_getElem_cons hlt)) rfl
  have hsteps : 2 * k + 3 = 2 + 2 * k + 1 := by omega
  rw [hsteps]
  refine (run_frameUnderWay hi he hr hc hh hm hq hk4 hb 2).trans (herr.trans ?_)
  simp [frameUnderWay, frameDev_take _ _ _ hlt, ← hop, ← hqueue]

end

/-! ## The obligations -/

/-- Settles O29: with all four transactions acknowledged the queue is empty and UPDATE completes. -/
theorem updateRunShowsFrame : Obligations.UpdateRunShowsFrame := by
  unfold Obligations.UpdateRunShowsFrame
  intro s hour minute rest txns hi he hr hc hh hm hq hb
  obtain ⟨hop, hf, hqueue, hp, ho⟩ := hi.ready_quiet hr
  have hlen := updateOrder_length hi.legal
  have hdrop : s.params.updateOrder.drop 4 = [] := List.drop_of_length_le hlen.le
  have htake : s.params.updateOrder.take 4 = s.params.updateOrder := List.take_of_length_le hlen.le
  have hdone := step_complete (s := frameUnderWay hour minute 4 rest txns s) he hf hp ho rfl
    (congrArg (frameTxns · hour.toNat minute.toNat) hdrop)
  have hshown : ∀ i : Fin 4, (frameUnderWay hour minute 4 rest txns s).dev.position (BitVec.ofNat 4 i.val) =
      (frameTxn hour.toNat minute.toNat i).data := fun i => by
    refine (frameDev_position ..).trans (if_pos ?_)
    rw [htake]
    exact mem_updateOrder hi.legal i
  refine ⟨_, (run_frameUnderWay hi he hr hc hh hm hq (k := 4) (by omega) hb 1).trans (run_succ hdone), ?_, rfl, rfl,
    (hshown 0).trans (frameTxn_zero_data ..), hshown 1, hshown 2, hshown 3,
    fun _ hpos => frameDev_position_of_ge _ _ _ _ hpos, frameDev_cfg ..⟩
  simp [frameUnderWay, hdrop, frameTxns, ← hop, ← hqueue]

/-- Settles O30: no entry of UPDATE_ORDER repeats, so an entry's position is among those written exactly when the
entry's index is below their number. -/
theorem updateFailureLeavesMixedFrame : Obligations.UpdateFailureLeavesMixedFrame := by
  unfold Obligations.UpdateFailureLeavesMixedFrame
  intro s hour minute k latched rest txns hi he hr hc hh hm hq hk hb
  have hlt : k < s.params.updateOrder.length := hk.trans_eq (updateOrder_length hi.legal).symm
  refine ⟨_, _, run_frame_err hi he hr hc hh hm hq (List.getElem?_eq_getElem hlt) hb, rfl, rfl, ?_, frameDev_cfg ..,
    fun j i hj => ?_, fun _ hpos => frameDev_position_of_ge _ _ _ _ hpos⟩
  · rw [List.filterMap_append, filterMap_ackedEvents (fun _ => rfl) (fun _ _ => rfl), frameWrites_txns,
      frameTxns, frameTxns, ← List.map_take, List.take_succ_eq_append_getElem hlt, List.map_append]
    rfl
  · have hwritten : i ∈ s.params.updateOrder.take (if latched then k + 1 else k) ↔
        j < k ∨ (j = k ∧ latched = true) := by
      rw [mem_take_iff_of_getElem? (updateOrder_nodup hi.legal) hj]
      cases latched with
      | true => simp [Nat.le_iff_lt_or_eq]
      | false => simp
    refine (frameDev_position ..).trans ?_
    simp only [hwritten]

end Sys2Proof.Machine
end

section
/-! SUPPORT. The bus commands at the expander (spec/43_expander_commands.md): what CONFIG and WRITE_IO leave at every
command address, what a transaction's outcome leaves there (R93, R100), and when the display is known (R96). -/

namespace Sys2Proof.Machine

/-! ## The commands -/

/-- A position write leaves its byte at its own command address and the old byte at every other (R95). -/
theorem byteAt_setPosition_writeIo (s : State) (p : Nibble) (d c : Byte) :
    (s.setPosition p d).dev.byteAt c = if c = writeIoCommand p then some d else s.dev.byteAt c := by
  have h := byteAt_setPosition s c (writeIoCommand p) d (writeIoCommand_high p) (writeIoCommand_ne_config p)
  rwa [writeIoCommand_low] at h

/-- Writing the byte that a position already holds (R95). -/
@[simp] theorem write_position_self (e : Expander) (p : Nibble) : e.write p (e.position p) = e := by
  simp [Expander.write, Expander.position]

/-- Settles O31: CONFIG's next state is `setCfg`, whose byte stands at CONFIG's own command address. -/
theorem configWritesCfgOnly : Obligations.ConfigWritesCfgOnly := by
  unfold Obligations.ConfigWritesCfgOnly
  exact fun s d => ⟨s.setCfg d, rfl, rfl, fun c hc => (byteAt_setCfg s d c).trans (if_neg hc),
    rfl, rfl, rfl, rfl, rfl, rfl⟩

/-- Settles O32: WRITE_IO's next state is `setPosition`, whose byte stands at the position's own command address. -/
theorem writeIoWritesOnePosition : Obligations.WriteIoWritesOnePosition := by
  unfold Obligations.WriteIoWritesOnePosition
  intro s p d
  refine ⟨s.setPosition p d, rfl, (setPosition_position s d p p).trans (if_pos rfl),
    fun q hq => (setPosition_position s d p q).trans (if_neg hq), rfl, fun c hc => ?_, ?_,
    rfl, rfl, rfl, rfl, rfl, rfl⟩
  · exact (byteAt_setPosition_writeIo s p d c).trans (if_neg (writeIoCommand_eq p ▸ hc))
  · rintro rfl
    exact write_position_self s.dev p

/-- Settles O33: each of the three is its own refusal in `exec`, whatever the state and the byte. -/
theorem unissuedCommandsRefused : Obligations.UnissuedCommandsRefused := by
  unfold Obligations.UnissuedCommandsRefused
  exact fun _ _ => ⟨rfl, rfl, rfl⟩

/-! ## The outcomes of a transaction -/

/-- The bus fails: with the draw for the new byte the transaction is delivered before the fault is raised, with the
other the registers stay (R73, R100). -/
theorem step_err {s : State} {x : Txn} {latched : Bool} {rest : List TxnAnswer} (he : s.host.encoderReads = [])
    (hf : s.block.fault = none) (hp : s.block.pending = some x) (hb : s.bus.txns = .err latched :: rest) :
    step s = if latched then (deliver x (s.setTxnAnswers rest)).andThen (resultErr x)
      else .next (resultErr x (s.setTxnAnswers rest)) := by
  rw [step_pending he hf hp, resultStep]
  cases latched with
  | true => simp only [hb, if_true]
  | false => simp only [hb, Bool.false_eq_true, if_false]

/-- The failure of a transaction on a block without a fault, written out: its own fault is the first (R83, R105). -/
theorem resultErr_of_no_fault {s : State} (hf : s.block.fault = none) (x : Txn) :
    resultErr x s = { s with
      block := { s.block with
        fault := some .busTransactionError, op := none, queue := [], pending := none, opening := false }
      history := s.history ++ [.result x .err] } := by
  simp [resultErr, raiseFault, State.log, hf]

/-- Settles O20: the two draws differ only in whether the transaction is delivered before its fault is raised. -/
theorem failedTransactionTargetIsDraw : Obligations.FailedTransactionTargetIsDraw := by
  unfold Obligations.FailedTransactionTargetIsDraw
  intro s x latched rest he hf hp hb hx
  rw [step_err he hf hp hb]
  cases latched with
  | true =>
    obtain ⟨d, hd, hbyte⟩ := deliver_of_register hx (s.setTxnAnswers rest)
    refine ⟨d, ?_, fun c => by simpa using hbyte c⟩
    rw [if_pos rfl, hd, andThen_next, resultErr_of_no_fault (by exact hf)]
    rfl
  | false =>
    refine ⟨s.dev, ?_, fun c => by simp⟩
    rw [if_neg Bool.false_ne_true, resultErr_of_no_fault (by exact hf)]
    rfl

/-- A register that a delivery changes is the one its transaction names, and it holds the transaction's byte (R93). -/
theorem deliver_changed {x : Txn} {l : List TxnAnswer} {s u : State} {c : Byte}
    (hd : deliver x (s.setTxnAnswers l) = .next u) (hne : u.dev.byteAt c ≠ s.dev.byteAt c) :
    x.cmd = c ∧ u.dev.byteAt c = some x.data := by
  have hbyte := deliver_byteAt hd c
  by_cases hc : c = x.cmd
  · exact ⟨hc.symm, hbyte.trans (if_pos hc)⟩
  · exact absurd (hbyte.trans (if_neg hc)) hne

/-- Settles O35: the moves that deliver the pending transaction, acknowledged or failed, are the ones that write the
expander. -/
theorem expanderChangesOnlyByTransaction : Obligations.ExpanderChangesOnlyByTransaction := by
  unfold Obligations.ExpanderChangesOnlyByTransaction
  intro s t h c hne
  cases step_moves h with
  | ack _ _ x _ u hp _ hd =>
    obtain ⟨hcmd, hbyte⟩ := deliver_changed hd hne
    exact ⟨x, .ack, hp, hcmd, hbyte, rfl, by rw [resultAck_history, deliver_history hd]⟩
  | errLatched _ _ x _ u hp _ hd =>
    obtain ⟨hcmd, hbyte⟩ := deliver_changed hd hne
    exact ⟨x, .err, hp, hcmd, hbyte, rfl, by rw [resultErr_history, deliver_history hd]⟩
  | _ => exact absurd rfl hne

/-! ## The display -/

/-- The display is known in the spec's own terms: the configuration byte, a wired position, a successful CONFIG. -/
theorem displayKnown_iff_configured (s : State) (p : Nibble) :
    displayKnown s p = true ↔ s.dev.cfg = 0x03#8 ∧ p.toNat ≤ 3 ∧
      (s.earlierConfig = true ∨ ∃ x : Txn, x.cmd = 0x24#8 ∧ Event.result x .ack ∈ s.history) := by
  have wired : p.toNat < numDigits ↔ p.toNat ≤ 3 := Nat.lt_succ_iff
  rw [displayKnown_iff, configSucceeded_iff, wired]
  exact ⟨fun ⟨hs, hc, hp⟩ => ⟨hc, hp, hs⟩, fun ⟨hc, hp, hs⟩ => ⟨hs, hc, hp⟩⟩

/-- What is shown is the segments of the position's byte, where the display is known (R58, R96). -/
theorem shownSegments_eq_some {s : State} {p : Nibble} {segs : List Segment} :
    shownSegments s p = some segs ↔ displayKnown s p = true ∧ litSegments (s.dev.position p) = segs := by
  simp only [shownSegments, Option.map_eq_some_iff, shownPattern_eq_some]
  constructor
  · rintro ⟨b, ⟨hk, rfl⟩, hsegs⟩
    exact ⟨hk, hsegs⟩
  · exact fun ⟨hk, hsegs⟩ => ⟨_, ⟨hk, rfl⟩, hsegs⟩

/-- The list that `litSegments` filters names every segment. -/
theorem mem_litSegments {b : Byte} {x : Segment} : x ∈ litSegments b ↔ lights b x = true := by
  have hall : x ∈ [Segment.a, .b, .c, .d, .e, .f, .g, .dp] := by cases x <;> decide
  rw [litSegments, List.mem_filter]
  exact and_iff_right hall

/-- Settles O56: the segments are given exactly where the display is known. -/
theorem displayKnownExactlyWhereStated : Obligations.DisplayKnownExactlyWhereStated := by
  unfold Obligations.DisplayKnownExactlyWhereStated
  intro s p
  simp only [shownSegments_eq_some, exists_and_left, exists_eq', and_true]
  exact displayKnown_iff_configured s p

/-- Settles O36: a position write leaves all that makes the display known, and the position holds the byte. -/
theorem writtenByteShownRaw : Obligations.WrittenByteShownRaw := by
  unfold Obligations.WrittenByteShownRaw
  intro s p d hcfg hp hs
  have hknown : displayKnown (s.setPosition p d) p = true := (displayKnown_iff_configured _ p).2 ⟨hcfg, hp, hs⟩
  have hpos : (s.setPosition p d).dev.position p = d := (setPosition_position s d p p).trans (if_pos rfl)
  refine ⟨s.setPosition p d, litSegments d, rfl, shownSegments_eq_some.2 ⟨hknown, by rw [hpos]⟩, fun x => ?_⟩
  rw [mem_litSegments]
  cases x <;> exact Iff.rfl

end Sys2Proof.Machine
end

section
/-! SUPPORT. Faults, hangs and what ends a request (spec/60_exceptions.md): a fault's entry, the states in which the
block stands still for ever, the results that R101 leaves in every history, and the steps of a busy block whose bus
answers. -/

namespace Sys2Proof.Machine

/-! ## The block stands still -/

/-- A fault is recorded, or the bus has no answer left to what is outstanding (R113, R114). -/
def Stuck (s : State) : Prop := s.block.fault ≠ none ∨ Hung s

theorem blockStep_of_hung {s : State} (h : Hung s) : blockStep s = .next s := by
  unfold blockStep
  split
  · rfl
  · obtain ⟨ho, hp, hb⟩ | ⟨hp, hb⟩ := h
    · simp [hp, ho, openResultStep, hb]
    · obtain ⟨x, hx⟩ := Option.ne_none_iff_exists'.1 hp
      simp only [hx, resultStep, hb]

theorem blockStep_of_stuck {s : State} (h : Stuck s) : blockStep s = .next s := by
  obtain hf | hh := h
  · exact if_pos (Option.isSome_iff_ne_none.2 hf)
  · exact blockStep_of_hung hh

/-- A stuck machine does nothing but read its encoder port, which leaves it stuck. -/
theorem step_of_stuck {s : State} (h : Stuck s) :
    ∃ p : HostPorts, p.requests = s.host.requests ∧ step s = .next { s with host := p } := by
  cases he : s.host.encoderReads with
  | nil => exact ⟨s.host, rfl, (step_block he).trans (blockStep_of_stuck h)⟩
  | cons v rest => exact ⟨{ s.host with encoderReads := rest, pattern := some (enc v) }, rfl, step_encode he⟩

theorem run_of_stuck {s : State} (h : Stuck s) (n : Nat) :
    ∃ p : HostPorts, p.requests = s.host.requests ∧ run n s = .next { s with host := p } := by
  induction n generalizing s with
  | zero => exact ⟨s.host, rfl, rfl⟩
  | succ n ih =>
    obtain ⟨p, hp, hstep⟩ := step_of_stuck h
    obtain ⟨q, hq, hrun⟩ := ih (s := { s with host := p }) h
    exact ⟨q, hq.trans hp, (run_succ hstep).trans hrun⟩

/-- Settles O38: a faulted block is stuck, and a stuck machine's run changes the encoder port only. -/
theorem faultedBlockStaysQuiescent : Obligations.FaultedBlockStaysQuiescent := by
  unfold Obligations.FaultedBlockStaysQuiescent
  intro s k n hf
  have hstuck : Stuck s := .inl (Option.ne_none_iff_exists'.2 ⟨k, hf⟩)
  obtain ⟨p, hp, hrun⟩ := run_of_stuck hstuck n
  exact ⟨_, hrun, rfl, rfl, rfl, rfl, rfl, hp⟩

/-- Settles O39: a hung machine is stuck, and neither the block nor the bus of it changes. -/
theorem unansweredBusHangsBlock : Obligations.UnansweredBusHangsBlock := by
  unfold Obligations.UnansweredBusHangsBlock
  intro s n hh
  obtain ⟨p, hp, hrun⟩ := run_of_stuck (.inr hh) n
  exact ⟨_, hrun, rfl, rfl, rfl, hp, hh⟩

/-! ## Fault entry -/

/-- The block after `raiseFault`, where it had no fault before: the fault recorded is the one raised (R105). -/
theorem raised_block {s t : State} {j k : FaultCode} (hf : s.block.fault = none) (ht : t.block.fault = some k)
    (hb : t.block = (raiseFault j s).block) :
    t.block = { s.block with fault := some k, op := none, queue := [], pending := none, opening := false } := by
  have hfault : t.block.fault = some j := by rw [hb, raiseFault_fault, hf, Option.none_or]
  obtain rfl : j = k := Option.some.inj (hfault.symm.trans ht)
  rw [hb, raiseFault, hf, Option.none_or]

/-- The moves that record a fault raise it by `raiseFault`, all other moves leave `S.fault`. -/
theorem step_fault_block {s t : State} {k : FaultCode} (h : step s = .next t) (hf : s.block.fault = none)
    (ht : t.block.fault = some k) :
    t.block = { s.block with fault := some k, op := none, queue := [], pending := none, opening := false } := by
  cases step_moves h with
  | errLatched _ _ _ _ _ _ _ hd =>
    exact raised_block (j := .busTransactionError) hf ht (by rw [resultErr_block, raiseFault, deliver_block hd]; rfl)
  | errUnchanged => exact raised_block (j := .busTransactionError) hf ht rfl
  | openErr => exact raised_block (j := .busOpenError) hf ht rfl
  | reserved => exact raised_block (j := .reservedRequest) hf ht rfl
  | refuse _ _ _ _ _ _ _ _ _ _ j => exact raised_block (j := j) hf ht rfl
  | ack _ _ _ _ _ _ _ hd =>
    have hfault := congrArg Block.fault (deliver_block hd)
    exact nomatch (hfault.trans hf).symm.trans ht
  | _ => exact nomatch hf.symm.trans ht

/-- Settles O37: fault entry is `raiseFault`, the registers change as every step may change them (R93), and the faulted
block is stuck. -/
theorem faultEntryDropsRequestAndStops : Obligations.FaultEntryDropsRequestAndStops := by
  unfold Obligations.FaultEntryDropsRequestAndStops
  intro s t k h hf ht
  refine ⟨step_fault_block h hf ht, fun c => ?_, fun u hu => ?_⟩
  · refine or_iff_not_imp_left.2 fun hne => ?_
    obtain ⟨x, _, hp, hc, hbyte, _⟩ := expanderChangesOnlyByTransaction s t h c hne
    exact ⟨x, hp, hc.symm, hbyte⟩
  · have hstuck : Stuck t := .inl (Option.ne_none_iff_exists'.2 ⟨k, ht⟩)
    obtain ⟨p, _, hstep⟩ := step_of_stuck hstuck
    obtain rfl := Host.Outcome.next.inj (hstep.symm.trans hu)
    exact ⟨rfl, rfl, rfl⟩

/-! ## Every issue has its result -/

/-- An event that keeps the history strictly sequential is the result of what is outstanding, an issue with nothing
outstanding, or one that leaves what is outstanding. -/
theorem busAfter_eq_some {b : Option (Option Txn)} {e : Event} {o : Option Txn} (h : busAfter b e = some o) :
    ∃ o', b = some o' ∧
      ((∃ x r, e = .result x r ∧ o' = some x ∧ o = none) ∨ (∃ x, e = .issue x ∧ o' = none ∧ o = some x) ∨
        ((∀ x, e ≠ .issue x) ∧ o = o')) := by
  cases b with
  | none => cases h
  | some o' =>
    refine ⟨o', rfl, ?_⟩
    cases e with
    | issue x =>
      cases o' with
      | none => exact .inr (.inl ⟨x, rfl, rfl, (Option.some.inj h).symm⟩)
      | some y => cases h
    | result x r =>
      cases o' with
      | none => cases h
      | some y =>
        obtain ⟨rfl, ho⟩ := Option.ite_none_right_eq_some.1 h
        exact .inl ⟨x, r, rfl, rfl, (Option.some.inj ho).symm⟩
    | accept | refuse | busOpen | openResult | done =>
      cases o' <;> exact .inr (.inr ⟨nofun, (Option.some.inj h).symm⟩)

/-- In a strictly sequential history a transaction issued is outstanding at the end or has its result (R43, R101). -/
theorem result_of_issue {h : List Event} {x : Txn} (hx : .issue x ∈ h) {o : Option Txn}
    (ho : outstanding h = some o) : o = some x ∨ ∃ r, .result x r ∈ h := by
  induction h using List.reverseRecOn generalizing o with
  | nil => cases hx
  | append_singleton l e ih =>
    rw [outstanding_append, List.foldl_cons, List.foldl_nil] at ho
    obtain ⟨o', hl, hcase⟩ := busAfter_eq_some ho
    obtain hx | he := List.mem_append.1 hx
    · obtain ho' | ⟨r, hr⟩ := ih hx hl
      · obtain ⟨y, r, rfl, rfl, rfl⟩ | ⟨y, rfl, rfl, rfl⟩ | ⟨-, rfl⟩ := hcase
        · obtain rfl := Option.some.inj ho'
          exact .inr ⟨r, List.mem_append_right l (List.mem_singleton_self _)⟩
        · cases ho'
        · exact .inl ho'
      · exact .inr ⟨r, List.mem_append_left _ hr⟩
    · obtain rfl := List.mem_singleton.1 he
      obtain ⟨_, _, ⟨⟩, _⟩ | ⟨y, ⟨⟩, _, rfl⟩ | ⟨hne, _⟩ := hcase
      · exact .inl rfl
      · exact absurd rfl (hne x)

theorem BusTraceInv.of_reachable {s : State} (h : Reachable s) : BusTraceInv s := by
  induction h with
  | initial h => exact ⟨.of_initial h, by rw [h.history, h.block]; rfl⟩
  | step _ hs ih => exact ih.step hs

/-- Settles O49: the history of a reachable state is strictly sequential and leaves `S.pending` outstanding, which a
fault has cleared. -/
theorem reachableIssuesHaveResults : Obligations.ReachableIssuesHaveResults := by
  unfold Obligations.ReachableIssuesHaveResults
  intro s hs x hx
  obtain ⟨hcontrol, htrace⟩ := BusTraceInv.of_reachable hs
  have hend := result_of_issue hx htrace
  refine ⟨hend, fun hf => hend.resolve_left fun hp => ?_⟩
  obtain ⟨_, _, hnone, _⟩ := hcontrol.laws.fault_quiet hf
  exact nomatch hnone.symm.trans hp

/-! ## A busy block whose bus answers -/

/-- Every transaction of the closed set reaches a register of the expander (R57). -/
theorem Emittable.names_register {p : Params} {x : Txn} (h : Emittable p x) :
    x.cmd = 0x24#8 ∨ (0x30 ≤ x.cmd.toNat ∧ x.cmd.toNat ≤ 0x3F) := by
  obtain hw | ⟨pos, _, hcmd, _⟩ := h
  · exact .inl ((wordCmd_word x).symm.trans (congrArg wordCmd hw))
  · rw [hcmd, ← writeIoCommand_eq]
    exact .inr (command_high_eq_three_iff.1 (writeIoCommand_high pos))

/-- The results still to come for what is queued and what is pending. -/
def resultsLeft (b : Block) : Nat := b.queue.length + if b.pending = none then 0 else 1

/-- A busy block with nothing on the encoder port, whose bus has an answer for the open and for every transaction
left. -/
structure Answered (s : State) : Prop where
  control : ControlInv s
  emission : EmissionInv s
  no_encode : s.host.encoderReads = []
  busy : s.block.op ≠ none
  opens : s.block.opening = true → s.bus.opens ≠ [] ∧ s.bus.txns ≠ []
  txns : resultsLeft s.block ≤ s.bus.txns.length

/-- The steps that a busy block takes at most until its request ends: an open is followed by an issue, a result and the
completion; otherwise each queued transaction takes an issue and a result, the pending one a result. -/
def stepsLeft (b : Block) : Nat := if b.opening then 4 else b.queue.length + resultsLeft b + 1

theorem stepsLeft_pos (b : Block) : 0 < stepsLeft b := by
  unfold stepsLeft
  split_ifs <;> omega

theorem ControlInv.stepsLeft_le {s : State} (h : ControlInv s) : stepsLeft s.block ≤ 10 := by
  have := h.queue_short
  unfold stepsLeft resultsLeft
  split_ifs <;> omega

/-- A step that leaves the block busy, with answers for all that is left, keeps `Answered`. -/
theorem Answered.of_step {s t : State} (ha : Answered s) (h : step s = .next t) (hhost : t.host = s.host)
    (hop : t.block.op ≠ none) (ho : t.block.opening = false) (hb : resultsLeft t.block ≤ t.bus.txns.length) :
    Answered t where
  control := ha.control.step h
  emission := stepKeepsEmissionClosed s t ha.emission h
  no_encode := hhost ▸ ha.no_encode
  busy := hop
  opens := fun hto => nomatch ho.symm.trans hto
  txns := hb

/-- One step of an answered busy block ends the request or leaves fewer steps to take. -/
def Advances (s : State) : Prop :=
  ∃ t, step s = .next t ∧ t.host = s.host ∧
    (t.block.op = none ∨ Answered t ∧ stepsLeft t.block < stepsLeft s.block)

section
variable {s : State} (ha : Answered s)
include ha

theorem Answered.no_fault : s.block.fault = none := by
  by_contra hf
  exact ha.busy (ha.control.laws.fault_quiet hf).1

theorem Answered.advances_pending {x : Txn} (hp : s.block.pending = some x) : Advances s := by
  have hf := ha.no_fault
  have hleft : s.block.queue.length + 1 ≤ s.bus.txns.length := by simpa [resultsLeft, hp] using ha.txns
  have ho : s.block.opening = false := (ha.control.laws.pending_busy (by simp [hp])).2
  obtain ⟨a, rest, hb⟩ : ∃ a rest, s.bus.txns = a :: rest :=
    List.exists_cons_of_length_pos (by omega)
  obtain ⟨d, hd, -⟩ := deliver_of_register (ha.emission.pending x hp).names_register (s.setTxnAnswers rest)
  cases a with
  | ack =>
    have hstep := step_ack ha.no_encode hf hp hb
    rw [hd, andThen_next] at hstep
    refine ⟨_, hstep, rfl, .inr ⟨ha.of_step hstep rfl ha.busy ho ?_, ?_⟩⟩
    · simpa [resultsLeft, hb] using hleft
    · simp [stepsLeft, resultsLeft, hp, ho]
  | err latched =>
    have hstep := step_err ha.no_encode hf hp hb
    rw [hd, andThen_next] at hstep
    cases latched with
    | true => exact ⟨_, hstep, rfl, .inl rfl⟩
    | false => exact ⟨_, hstep, rfl, .inl rfl⟩

theorem Answered.advances_opening (hp : s.block.pending = none) (ho : s.block.opening = true) : Advances s := by
  obtain ⟨hopens, htxns⟩ := ha.opens ho
  obtain ⟨a, rest, hb⟩ := List.exists_cons_of_ne_nil hopens
  cases a with
  | ok =>
    have hstep := step_open_ok ha.no_encode ha.no_fault hp ho hb
    refine ⟨_, hstep, rfl, .inr ⟨ha.of_step hstep rfl ha.busy rfl ?_, ?_⟩⟩
    · simpa [resultsLeft, hp, Nat.one_le_iff_ne_zero] using htxns
    · simp [stepsLeft, resultsLeft, hp, ho]
  | err => exact ⟨_, step_open_err ha.no_encode ha.no_fault hp ho hb, rfl, .inl rfl⟩

theorem Answered.advances_queue (hp : s.block.pending = none) (ho : s.block.opening = false) : Advances s := by
  obtain ⟨r, hr⟩ := Option.ne_none_iff_exists'.1 ha.busy
  cases hq : s.block.queue with
  | nil => exact ⟨_, step_complete ha.no_encode ha.no_fault hp ho hr hq, rfl, .inl rfl⟩
  | cons x rest =>
    have hstep := step_issue ha.no_encode ha.no_fault hp ho hr hq
    refine ⟨_, hstep, rfl, .inr ⟨ha.of_step hstep rfl ha.busy ho ?_, ?_⟩⟩
    · simpa [resultsLeft, hp, hq] using ha.txns
    · simp [stepsLeft, resultsLeft, hp, ho, hq]

theorem Answered.advances : Advances s := by
  cases hp : s.block.pending with
  | some x => exact ha.advances_pending hp
  | none =>
    cases ho : s.block.opening with
    | true => exact ha.advances_opening hp ho
    | false => exact ha.advances_queue hp ho

end

/-- An answered busy block ends its request within the steps it has left. -/
theorem Answered.ends {m : Nat} {s : State} (ha : Answered s) (hm : stepsLeft s.block ≤ m) :
    ∃ n t, n ≤ m ∧ run n s = .next t ∧ t.block.op = none ∧ t.host = s.host := by
  induction m generalizing s with
  | zero => exact absurd hm (Nat.not_le.2 (stepsLeft_pos s.block))
  | succ m ih =>
    obtain ⟨t, hstep, hhost, hop | ⟨hat, hlt⟩⟩ := ha.advances
    · exact ⟨1, t, Nat.le_add_left 1 m, run_succ hstep, hop, hhost⟩
    · obtain ⟨n, u, hn, hrun, hop, hhost'⟩ := ih hat (Nat.le_of_lt_succ (hlt.trans_le hm))
      exact ⟨n + 1, u, Nat.succ_le_succ hn, (run_succ hstep).trans hrun, hop, hhost'.trans hhost⟩

/-- Settles O53: every step of a busy block whose bus answers brings its end nearer, and at most ten are left. -/
theorem answeredRequestEnds : Obligations.AnsweredRequestEnds := by
  unfold Obligations.AnsweredRequestEnds
  intro s hi hem he hop hopens htxns
  have ha : Answered s := ⟨hi, hem, he, hop, hopens, htxns⟩
  exact ha.ends hi.stepsLeft_le

/-! ## A later reset -/

/-- Settles O55: a later reset gives a state in which a run can begin, and INIT's run from it (O25) writes DEV.cfg and
no position. -/
theorem laterResetKeepsStaleDigits : Obligations.LaterResetKeepsStaleDigits := by
  unfold Obligations.LaterResetKeepsStaleDigits
  intro s hlegal
  have hinit : Initial s.blockReset := ⟨rfl, rfl, hlegal⟩
  refine ⟨hinit, rfl, fun rest opens txns he hq hopens htxns => ?_⟩
  have hcontrol : ControlInv s.blockReset := .of_initial hinit
  obtain ⟨hrun, -⟩ := initRunConfiguresExpander s.blockReset rest opens txns hcontrol he rfl rfl hq hopens htxns
  exact ⟨_, hrun, rfl, rfl, rfl, rfl, fun _ => rfl⟩

end Sys2Proof.Machine
end

section
/-! SUPPORT. Reset and hazards (spec/70_reset_and_hazards.md): a request held at a block that is not ready, the states in
which a run begins and ends, what can succeed right after reset, and what no fault and no reset takes from the display. -/

namespace Sys2Proof.Machine

/-! ## Requests at a block that is not ready -/

/-- Settles O16: a request's meaning is its acceptance, which is for a ready block only. -/
theorem requestNotReadyIsHeld : Obligations.RequestNotReadyIsHeld := by
  unfold Obligations.RequestNotReadyIsHeld
  intro s i hi hr
  obtain ⟨r, rfl⟩ := request_of_space hi
  exact (exec_request_eq r s).trans (takeRequest_busy hr)

/-- From `s` to `t` no word left the request port, and no word was accepted or refused (R125). -/
def HoldsPort (s t : State) : Prop :=
  t.host.requests = s.host.requests ∧
    ∃ more, t.history = s.history ++ more ∧ (∀ w, Event.accept w ∉ more) ∧ (∀ w k, Event.refuse w k ∉ more)

/-- The port is held where nothing is recorded. -/
theorem HoldsPort.of_same_history {s t : State} (hhost : t.host.requests = s.host.requests)
    (hh : t.history = s.history) : HoldsPort s t :=
  ⟨hhost, [], by rw [hh, List.append_nil], fun _ => List.not_mem_nil, fun _ _ => List.not_mem_nil⟩

/-- The port is held where an event is recorded that is not a request's. -/
theorem HoldsPort.of_event {s t : State} {e : Event} (hhost : t.host = s.host) (hh : t.history = s.history ++ [e])
    (ha : ∀ w, e ≠ .accept w) (hr : ∀ w k, e ≠ .refuse w k) : HoldsPort s t :=
  ⟨congrArg HostPorts.requests hhost, [e], hh, fun w hw => ha w (List.mem_singleton.1 hw).symm,
    fun w k hw => hr w k (List.mem_singleton.1 hw).symm⟩

theorem deliver_host {x : Txn} {l : List TxnAnswer} {s u : State}
    (h : deliver x (s.setTxnAnswers l) = .next u) : u.host = s.host := by
  rw [deliver_frame h]; rfl

/-- The moves that take a word from the port are those of an idle block. -/
theorem step_holdsPort {s t : State} (hop : s.block.op ≠ none) (h : step s = .next t) : HoldsPort s t := by
  cases step_moves h with
  | encode | faulted | waitResult | waitOpen | idle => exact .of_same_history rfl rfl
  | ack _ _ x _ _ _ _ hd =>
    exact .of_event (e := .result x .ack) (deliver_host hd :) (by rw [resultAck_history, deliver_history hd]) nofun nofun
  | errLatched _ _ x _ _ _ _ hd =>
    exact .of_event (e := .result x .err) (deliver_host hd :) (by rw [resultErr_history, deliver_history hd]) nofun nofun
  | errUnchanged _ _ x => exact .of_event (e := .result x .err) rfl rfl nofun nofun
  | openOk => exact .of_event (e := .openResult .ok) rfl rfl nofun nofun
  | openErr => exact .of_event (e := .openResult .err) rfl rfl nofun nofun
  | issue _ _ _ _ _ _ x => exact .of_event (e := .issue x) rfl rfl nofun nofun
  | complete _ _ _ _ r => exact .of_event (e := .done r) rfl rfl nofun nofun
  | reserved _ _ _ _ hr | refuse _ _ _ _ hr | acceptInit _ _ _ _ hr | acceptDigits _ _ _ _ hr => exact absurd hr hop

/-- Settles O24: the request in progress changes only by an acceptance, its completion or a fault (O23), and a busy
block accepts none. -/
theorem busyBlockHoldsRequests : Obligations.BusyBlockHoldsRequests := by
  unfold Obligations.BusyBlockHoldsRequests
  intro s t hop h
  obtain ⟨hhost, hhistory⟩ := step_holdsPort hop h
  refine ⟨hhost, or_iff_not_imp_left.2 fun hne => ?_, hhistory⟩
  obtain ⟨_, _, _, hnone, _⟩ | ⟨_, _, hdone, _⟩ | ⟨_, _, _, hfault, _⟩ :=
    requestChangesOnlyByAcceptDoneFault s t h (Ne.symm hne)
  · exact absurd hnone hop
  · exact hdone
  · exact hfault

/-! ## Where a run begins -/

/-- Nothing is queued, pending or issued after reset (R119). -/
theorem EmissionInv.of_initial {s : State} (h : Initial s) : EmissionInv s where
  legal := h.legal
  queued := h.block ▸ nofun
  pending := h.block ▸ nofun
  issued := h.history ▸ nofun

/-- An empty history says nothing of the registers (R121). -/
theorem DevMatchesHistory.of_initial {s : State} (h : Initial s) : DevMatchesHistory s := by
  intro c d hacked
  rw [h.history] at hacked
  cases hacked

/-- After reset CONFIG is neither issued nor queued, and no request is in progress (R119). -/
theorem GateInv.of_initial {s : State} (h : Initial s) : GateInv s where
  control := .of_initial h
  ordered := by
    intro before after x heq
    rw [h.history] at heq
    exact absurd heq.symm (List.append_ne_nil_of_right_ne_nil before (List.cons_ne_nil _ after))
  configured_acked := h.block ▸ nofun
  config_once := by
    rw [h.block, h.history]
    exact Nat.zero_le 1
  config_unopened := fun _ => by
    rw [h.block, h.history]
    rfl
  init_only_config := h.block ▸ nofun
  init_progress := h.block ▸ nofun
  digit_no_config := h.block ▸ nofun

/-- Settles O47: each invariant holds of a block and a history as reset leaves them. -/
theorem initialStatesMeetInvariants : Obligations.InitialStatesMeetInvariants := by
  unfold Obligations.InitialStatesMeetInvariants
  refine ⟨⟨rfl, rfl, by decide⟩, fun s h => ?_⟩
  exact ⟨.of_initial h, .of_initial h, .of_reachable (.initial h), .of_initial h, .of_initial h⟩

/-! ## Where a run ends -/

/-- A move that records an event answers another state. -/
theorem ne_of_logged {s t : State} {e : Event} (hh : t.history = s.history ++ [e]) : t ≠ s := by
  rintro rfl
  simp at hh

/-- Every move records an event, but for ENCODE and those of a machine that waits: a faulted block, a bus without an
answer, an idle block with no word at its port. -/
theorem Moves.self_is_end {s t : State} (hm : Moves s t) (hts : t = s) (he : s.host.encoderReads = [])
    (hq : s.host.requests = []) : EndsWell s ∨ EndsFaulted s ∨ Hung s := by
  cases hm with
  | encode _ _ hv => exact nomatch he.symm.trans hv
  | faulted _ hf => exact .inr (.inl hf)
  | waitResult _ _ x hp hb => exact .inr (.inr (.inr ⟨by simp [hp], hb⟩))
  | waitOpen _ _ hp ho hb => exact .inr (.inr (.inl ⟨ho, hp, hb⟩))
  | idle _ hf _ _ hr => exact .inl ⟨hq, hr, hf⟩
  | ack _ _ x _ _ _ _ hd =>
    exact absurd hts (ne_of_logged (e := .result x .ack) (by rw [resultAck_history, deliver_history hd]))
  | errLatched _ _ x _ _ _ _ hd =>
    exact absurd hts (ne_of_logged (e := .result x .err) (by rw [resultErr_history, deliver_history hd]))
  | errUnchanged _ _ x => exact absurd hts (ne_of_logged (resultErr_history _ x))
  | openOk => exact absurd hts (ne_of_logged (openOk_history _))
  | openErr => exact absurd hts (ne_of_logged (openErr_history _))
  | issue _ _ _ _ _ _ x rest => exact absurd hts (ne_of_logged (issueStep_history _ x rest))
  | complete _ _ _ _ r => exact absurd hts (ne_of_logged (completeStep_history _ r))
  | reserved _ _ _ _ _ _ _ hw | refuse _ _ _ _ _ _ _ hw | acceptInit _ _ _ _ _ _ _ hw
  | acceptDigits _ _ _ _ _ _ _ hw => exact nomatch hq.symm.trans hw

/-- Settles O52: the moves that answer their own state are those of a machine that waits, and with empty ports it waits
at one of the three ends. -/
theorem quietStateIsEndOfRun : Obligations.QuietStateIsEndOfRun := by
  unfold Obligations.QuietStateIsEndOfRun
  exact fun _ he hq h => (step_moves h).self_is_end rfl he hq

/-! ## What can succeed after reset -/

/-- The step in which a quiet block takes a word records the fault of R112's first failing check, if any. -/
theorem step_fault_eq_firstFault {s : State} {w : Word} {rest : List Word} (he : s.host.encoderReads = [])
    (hr : ready s.block = true) (hp : s.block.pending = none) (ho : s.block.opening = false)
    (hq : s.host.requests = w :: rest) :
    ∃ t, step s = .next t ∧ t.block.fault = firstFault w.toNat s.block s.params := by
  obtain ⟨hop, hf⟩ := (ready_iff _).1 hr
  rw [step_accept he hf hp ho hop, acceptStep, hq]
  obtain ⟨hk, hw⟩ | ⟨r, rfl, hw, hk⟩ := firstFault_eq w s
  · simp only [hw]
    exact ⟨_, rfl, by simp [hf, hk]⟩
  · simp only [hw]
    cases hfault : acceptFault r s with
    | some k => exact ⟨_, exec_request_refused (s := s.setRequests rest) hr hfault, by simp [hf, hk, hfault]⟩
    | none =>
      obtain ⟨_, -, -, -, hf', -⟩ := start_frame r (logAccept r (s.setRequests rest))
      exact ⟨_, exec_request_accepted (s := s.setRequests rest) hr hfault, by rw [hf', hk, hfault]; exact hf⟩

/-- On the block as reset leaves it only the word of INIT passes the checks: the other operations' words have a reserved
bit set or meet a block that is not configured (R123). -/
theorem firstFault_reset_eq_none {n : Nat} {p : Params} : firstFault n Block.reset p = none ↔ n = 0 := by
  constructor
  · intro h
    simp only [firstFault, Block.reset, Bool.not_false, if_true] at h
    split_ifs at h with _ hn
    exact not_not.1 hn
  · rintro rfl
    rfl

/-- Settles O54: the checks of R112 on the block as reset leaves it. -/
theorem resetLeavesBlockReadyForInitOnly : Obligations.ResetLeavesBlockReadyForInitOnly := by
  unfold Obligations.ResetLeavesBlockReadyForInitOnly
  refine ⟨rfl, rfl, rfl, fun s w rest hb he hq => ?_⟩
  have hb : s.block = Block.reset := hb
  obtain ⟨t, hstep, hfault⟩ := step_fault_eq_firstFault he (by rw [hb]; rfl) (by rw [hb]; rfl) (by rw [hb]; rfl) hq
  refine ⟨t, hstep, ?_⟩
  rw [hfault, hb, firstFault_reset_eq_none]
  exact BitVec.toNat_inj (y := 0x0000#16)

/-! ## The display through a fault and a reset -/

theorem byteAt_config (d : Expander) : d.byteAt configCommandCode = some d.cfg := if_pos rfl

theorem byteAt_writeIo (d : Expander) (p : Nibble) : d.byteAt (writeIoCommand p) = some (d.position p) := by
  simp [Expander.byteAt]

/-- A transaction of the closed set that names the configuration register carries 0x03 (R57). -/
theorem Emittable.config_data {p : Params} {x : Txn} (h : Emittable p x) (hc : x.cmd = configCommandCode) :
    x.data = 0x03#8 := by
  obtain hw | ⟨pos, _, hcmd, _⟩ := h
  · exact (wordData_word x).symm.trans (congrArg wordData hw)
  · rw [← writeIoCommand_eq] at hcmd
    exact absurd (hcmd.symm.trans hc) (writeIoCommand_ne_config pos)

/-- A block that emits the closed set only keeps `DEV.cfg` at 0x03 (R57, R93). -/
theorem step_cfg {s t : State} (hi : EmissionInv s) (h : step s = .next t) (hc : s.dev.cfg = 0x03#8) :
    t.dev.cfg = 0x03#8 := by
  by_cases hsame : t.dev.byteAt configCommandCode = s.dev.byteAt configCommandCode
  · rw [byteAt_config, byteAt_config] at hsame
    exact (Option.some.inj hsame).trans hc
  · obtain ⟨x, _, hp, hcmd, hbyte, _⟩ := expanderChangesOnlyByTransaction s t h _ hsame
    rw [byteAt_config] at hbyte
    exact (Option.some.inj hbyte).trans ((hi.pending x hp).config_data hcmd)

/-- A position holds what it held, or the byte of the pending transaction, which names it (R93). -/
theorem step_position {s t : State} (h : step s = .next t) (p : Nibble) :
    t.dev.position p = s.dev.position p ∨
      ∃ x, s.block.pending = some x ∧ x.cmd = writeIoCommand p ∧ t.dev.position p = x.data := by
  refine or_iff_not_imp_left.2 fun hne => ?_
  have hbyte : t.dev.byteAt (writeIoCommand p) ≠ s.dev.byteAt (writeIoCommand p) := by
    simpa only [byteAt_writeIo, ne_eq, Option.some.injEq] using hne
  obtain ⟨x, _, hp, hcmd, hx, _⟩ := expanderChangesOnlyByTransaction s t h _ hbyte
  exact ⟨x, hp, hcmd, Option.some.inj ((byteAt_writeIo t.dev p).symm.trans hx)⟩

/-- No step takes away that the display is known: a successful CONFIG stays in the history, and `DEV.cfg` at 0x03. -/
theorem step_displayKnown {s t : State} {p : Nibble} (hi : EmissionInv s) (h : step s = .next t)
    (hk : displayKnown s p = true) : displayKnown t p = true := by
  obtain ⟨hs, hc, hp⟩ := (displayKnown_iff s p).1 hk
  obtain ⟨_, hearlier, more, hh, _⟩ := historyOnlyGrowsUnread s t h
  exact (displayKnown_iff t p).2 ⟨configSucceeded_append hs hearlier hh, step_cfg hi h hc, hp⟩

/-- Settles O57: a reset leaves the registers and that a CONFIG has succeeded; a step that records a fault, like any
other, leaves the display known and changes a position by its own transaction only. -/
theorem resetAndFaultKeepDisplay : Obligations.ResetAndFaultKeepDisplay := by
  unfold Obligations.ResetAndFaultKeepDisplay
  refine ⟨blockReset_shownPattern, fun s t k p b hi h _ _ hb => ?_⟩
  obtain ⟨hk, rfl⟩ := shownPattern_eq_some.1 hb
  have hknown := step_displayKnown hi h hk
  obtain hsame | ⟨x, hp, hcmd, hx⟩ := step_position h p
  · exact .inl (shownPattern_eq_some.2 ⟨hknown, hsame⟩)
  · exact .inr ⟨x, hp, hcmd.trans (writeIoCommand_eq p), shownPattern_eq_some.2 ⟨hknown, hx⟩⟩

end Sys2Proof.Machine
end
